-- ==== Sys2Proof/Word.lean ====
section
/-! DEFINITION. The two word types of the block. Every value of the spec is unsigned (00_scope.md R10), so no signed
reading of a word occurs anywhere in the model. -/
namespace Sys2Proof

/-- A `u8` of the spec (R10): bit 0 is the least significant bit. -/
abbrev Byte := BitVec 8

/-- A `u16` of the spec (R10). -/
abbrev Half := BitVec 16

end Sys2Proof
end

