-- ==== Sys2Proof/Config.lean ====
section
/-! DEFINITION. The implementation parameters of 00_scope.md R8: the constants the spec fixes, and `Config`, the parameters it
leaves OPEN. A `Config` is fixed for the life of the block (R31); the machine's state carries one, which no step changes. -/
namespace Sys2Proof

/-- The OPEN parameters of R8. -/
structure Config where
  /-- `TS_WIDTH`: the width in bits of a timestamp (R8, decision D8). -/
  tsWidth : Nat
  /-- `TS_TICKS_PER_MS`: ticks per millisecond (R8, R156). Only the host divides by it; no operation of the block reads it. -/
  tsTicksPerMs : Nat
  /-- `ACK_EXPIRY`: `none`, or `some H` in ticks (R164, conflict C2). -/
  ackExpiry : Option Nat
  /-- `SYNC1_REPLAY` (R123, conflict C1). -/
  sync1Replay : Bool
  /-- `EVQ_DEPTH`: `none` is the unbounded channel (R35, R242, I14). -/
  evqDepth : Option Nat
deriving DecidableEq, Repr

/-- The defaults of R8. -/
def Config.default : Config where
  tsWidth := 32
  tsTicksPerMs := 1000
  ackExpiry := none
  sync1Replay := false
  evqDepth := none

/-- The number of timestamps, `2^TS_WIDTH` (R12). -/
def Config.tsModulus (c : Config) : Nat := 2 ^ c.tsWidth

/-- `SYNC0` (R8). -/
abbrev sync0 : Byte := 0x55#8
/-- `SYNC1` (R8). -/
abbrev sync1 : Byte := 0xAA#8
/-- `PROTO_VERSION` (R8). -/
abbrev protoVersion : Byte := 0x01#8
/-- `MAX_LEN`, in payload bytes (R8). -/
abbrev maxLen : Nat := 128
/-- `CRC_POLY` (R8). -/
abbrev crcPoly : Half := 0x1021#16
/-- `CRC_INIT` (R8). -/
abbrev crcInit : Half := 0xFFFF#16
/-- `CRC_XOROUT` (R8, decision D4). -/
abbrev crcXorOut : Half := 0x0000#16
/-- `ACK_MSG_ID` (R8). -/
abbrev ackMsgId : Byte := 0x24#8
/-- `ACK_MIN_LEN` (R8). -/
abbrev ackMinLen : Nat := 2
/-- The number of entries of the payload accumulator `PBUF` (R60). -/
abbrev pbufEntries : Nat := 128
/-- `PEND_ENTRIES` (R8, R32). -/
abbrev pendEntries : Nat := 256

end Sys2Proof
end

