-- ==== Sys2Proof/Syntax.lean ====
section
/-! DEFINITION. The instructions: one constructor per row of spec/opcode_table.json. The table has three levels, each decoded by a
byte or a key of its own (30_encoding.md R80, R91, R89):
the host transactions (rows with a header byte); the transitions of `RX_BYTE` (rows `RX.…`, chosen by the parser state and the
byte); the dispatch of a validated frame (rows `MSG.…`, chosen by its msg_id). -/
namespace Sys2Proof

/-- `fsm` (10_state.md R22): the ten states of the parser, and the six codes `0xA` to `0xF` that it never holds but a 4-bit register
could show (93_implementation_defined.md I9). -/
inductive FsmState
  | waitSync0 | waitSync1 | readVersion | readLenLo | readLenHi | readMsgId | readSeq | readPayload | readCrcLo | readCrcHi
  | invalidA | invalidB | invalidC | invalidD | invalidE | invalidF
deriving DecidableEq, Repr

/-- One instruction of the block. `b` is the received byte; `now` is the host's timestamp (R40), a number below `2^TS_WIDTH`. -/
inductive Instr
  -- host transactions (R80, R90)
  /-- `RX_BYTE b @now` (R120). -/
  | rxByte (b : Byte) (now : Nat)
  /-- `TX_FRAME msg seq payload @now` (R180); the operand `plen` is the payload's length. -/
  | txFrame (msgId seq : Byte) (payload : List Byte) (now : Nat)
  /-- `SWEEP @now` (R165). -/
  | sweep (now : Nat)
  /-- `RESET` (R230). -/
  | reset
  | reservedOp0 | reservedOp4 | reservedOp5 | reservedOp6 | reservedOp7 | reservedOp8 | reservedOp9
  | reservedOpA | reservedOpB | reservedOpC | reservedOpD | reservedOpE
  /-- A header whose bits 3:0 are not zero (R81, R90). -/
  | reservedHdr (hdr : Byte)
  -- the transitions of RX_BYTE (R91); the row fixes the parser state
  | rxWaitSync0Sync0
  | rxWaitSync0Other (b : Byte)
  | rxWaitSync1Sync1
  | rxWaitSync1Sync0Replay
  | rxWaitSync1Other (b : Byte)
  | rxReadVersion (b : Byte)
  | rxReadLenLo (b : Byte)
  | rxReadLenHi (b : Byte)
  | rxReadMsgId (b : Byte)
  | rxReadSeq (b : Byte)
  | rxReadPayload (b : Byte)
  | rxReadCrcLo (b : Byte)
  /-- The only transition that reads `now` (R120, R131). -/
  | rxReadCrcHi (b : Byte) (now : Nat)
  | rxInvalidFsmA (b : Byte)
  | rxInvalidFsmB (b : Byte)
  | rxInvalidFsmC (b : Byte)
  | rxInvalidFsmD (b : Byte)
  | rxInvalidFsmE (b : Byte)
  | rxInvalidFsmF (b : Byte)
  -- the dispatch of a validated frame by its msg_id (R89, R107)
  | msgControlCmd
  | msgImu
  | msgWheel
  | msgSensor
  /-- The only kind whose dispatch reads `now` (R150). -/
  | msgAck (now : Nat)
  | msgUnknown (id : Byte)
deriving DecidableEq, Repr

end Sys2Proof
end

