-- ==== Sys2Proof/WellFormed.lean ====
section
/-! DEFINITION. Which terms of `Instr` are instructions: every operand fits its field (R80, R81), and a row for "any other" value
does not hold a value that a row of higher precedence takes (R91, R89). -/
namespace Sys2Proof

/-- `now` is a `u TS_WIDTH` (R40). -/
def Config.tsFits (c : Config) (now : Nat) : Bool := decide (now < c.tsModulus)

/-- The msg_id values that have a row of their own (R89). -/
def assignedMsgIds : List Byte := [0x10#8, 0x20#8, 0x21#8, 0x22#8, ackMsgId]

/-- `i` is an instruction of a block with the parameters `c`. -/
def Instr.wf (c : Config) (i : Instr) : Bool :=
  match i with
  | .rxByte _ now => c.tsFits now
  | .txFrame _ _ payload now => decide (payload.length < 65536) && c.tsFits now
  | .sweep now => c.tsFits now
  | .reset => true
  | .reservedOp0 | .reservedOp4 | .reservedOp5 | .reservedOp6 | .reservedOp7 | .reservedOp8 | .reservedOp9
  | .reservedOpA | .reservedOpB | .reservedOpC | .reservedOpD | .reservedOpE => true
  | .reservedHdr hdr => decide (hdr &&& 0x0F#8 ≠ 0#8)
  | .rxWaitSync0Sync0 | .rxWaitSync1Sync1 | .rxWaitSync1Sync0Replay => true
  | .rxWaitSync0Other b => decide (b ≠ sync0)
  | .rxWaitSync1Other b => decide (b ≠ sync1) && decide (b ≠ sync0)
  | .rxReadVersion _ | .rxReadLenLo _ | .rxReadLenHi _ | .rxReadMsgId _ | .rxReadSeq _ | .rxReadPayload _ | .rxReadCrcLo _ => true
  | .rxReadCrcHi _ now => c.tsFits now
  | .rxInvalidFsmA _ | .rxInvalidFsmB _ | .rxInvalidFsmC _ | .rxInvalidFsmD _ | .rxInvalidFsmE _ | .rxInvalidFsmF _ => true
  | .msgControlCmd | .msgImu | .msgWheel | .msgSensor => true
  | .msgAck now => c.tsFits now
  | .msgUnknown id => !assignedMsgIds.contains id

end Sys2Proof
end

