-- ==== Sys2Proof/Decode.lean ====
section
/-! DEFINITION. Byte order, the decoder of the three levels of spec/opcode_table.json (total on any bytes, rejecting by name), and
the encoder written from the same tables: host transactions (30_encoding.md R80, R81, R90), the `RX_BYTE` decode key (R91), the
msg_id of a validated frame (R89). -/
namespace Sys2Proof

/-! ### Byte order: every multi-byte integer is little-endian (20_memory.md R62, 30_encoding.md R81) -/

/-- `zext_16` of a byte (R11). -/
def zext16 (b : Byte) : Half := b.setWidth 16

/-- `le16(lo, hi)` (R11, R83). -/
def le16 (lo hi : Byte) : Half := zext16 lo ||| (zext16 hi <<< 8)

/-- `v[7:0]` (R10). -/
def loByte (v : Half) : Byte := v.setWidth 8

/-- `v[15:8]` (R10). -/
def hiByte (v : Half) : Byte := (v >>> 8).setWidth 8

/-- The low `n` bytes of a number, least significant first. -/
def leBytes : Nat → Nat → List Byte
  | 0, _ => []
  | n + 1, v => BitVec.ofNat 8 v :: leBytes n (v / 256)

/-- The number whose bytes these are, least significant first. -/
def leNat : List Byte → Nat
  | [] => 0
  | b :: rest => b.toNat + 256 * leNat rest

/-! ### The codes of the parser states (10_state.md R22) -/

/-- The 4-bit code of a parser state. -/
def FsmState.code : FsmState → BitVec 4
  | .waitSync0 => 0x0#4
  | .waitSync1 => 0x1#4
  | .readVersion => 0x2#4
  | .readLenLo => 0x3#4
  | .readLenHi => 0x4#4
  | .readMsgId => 0x5#4
  | .readSeq => 0x6#4
  | .readPayload => 0x7#4
  | .readCrcLo => 0x8#4
  | .readCrcHi => 0x9#4
  | .invalidA => 0xA#4
  | .invalidB => 0xB#4
  | .invalidC => 0xC#4
  | .invalidD => 0xD#4
  | .invalidE => 0xE#4
  | .invalidF => 0xF#4

/-- The parser states in the order of their codes. -/
def fsmStates : List FsmState :=
  [.waitSync0, .waitSync1, .readVersion, .readLenLo, .readLenHi, .readMsgId, .readSeq, .readPayload, .readCrcLo, .readCrcHi,
   .invalidA, .invalidB, .invalidC, .invalidD, .invalidE, .invalidF]

/-- The parser state with a code, if a 4-bit register can hold that code. -/
def FsmState.ofCode (n : Nat) : Option FsmState := fsmStates[n]?

/-- The code is one of `0x0` to `0x9`, the ten states of R22. -/
def FsmState.legal (f : FsmState) : Bool := f.code.toNat ≤ 9

/-! ### Decoding -/

/-- How many bytes the `now` operand takes in a transaction: `TS_WIDTH/8`, rounded up (R81). -/
def Config.tsBytes (c : Config) : Nat := (c.tsWidth + 7) / 8

/-- Why a code decodes to no instruction. -/
inductive DecodeError
  /-- A transaction of no bytes. -/
  | emptyTransaction
  /-- A transaction that ends before its last operand (R81). -/
  | truncated
  /-- A transaction with bytes after its last operand (R81). -/
  | trailing
  /-- An `RX_BYTE` decode key whose bits 15:8 are no 4-bit code. -/
  | noSuchRow (key : Half)
deriving DecidableEq, Repr

/-- What an instruction is decoded from: one code space for each level of the table. -/
inductive Code
  /-- The bytes of one host transaction (R81). -/
  | host (bytes : List Byte)
  /-- The key `(fsm << 8) | b` of an `RX_BYTE` transition (R91), with the operation's timestamp beside it. -/
  | rx (key : Half) (now : Nat)
  /-- The msg_id of a validated frame (R82, R89), with the operation's timestamp beside it. -/
  | msg (id : Byte) (now : Nat)
deriving DecidableEq, Repr

/-- The last operand of a transaction: exactly `tsBytes` bytes of `now`, of which the block samples `TS_WIDTH` bits. -/
def decodeNow (c : Config) (bytes : List Byte) : Except DecodeError Nat :=
  if bytes.length < c.tsBytes then .error .truncated
  else if c.tsBytes < bytes.length then .error .trailing
  else .ok (leNat bytes % c.tsModulus)

/-- The operands of `RX_BYTE` (R80). -/
def decodeRxByte (c : Config) : List Byte → Except DecodeError Instr
  | [] => .error .truncated
  | b :: rest => (decodeNow c rest).map (fun now => .rxByte b now)

/-- The operands of `TX_FRAME` (R80): `msg_id`, `seq`, `plen` low byte first, `plen` payload bytes, `now`. -/
def decodeTxFrame (c : Config) : List Byte → Except DecodeError Instr
  | msgId :: seq :: lo :: hi :: rest =>
    let plen := (le16 lo hi).toNat
    if rest.length < plen then .error .truncated
    else (decodeNow c (rest.drop plen)).map (fun now => .txFrame msgId seq (rest.take plen) now)
  | _ => .error .truncated

/-- A host transaction (R80, R81, R90). A reserved header is the whole of its transaction's meaning: what follows it is not read. -/
def decodeHost (c : Config) : List Byte → Except DecodeError Instr
  | [] => .error .emptyTransaction
  | hdr :: rest =>
    match hdr.toNat with
    | 0x10 => decodeRxByte c rest
    | 0x20 => decodeTxFrame c rest
    | 0x30 => (decodeNow c rest).map (fun now => .sweep now)
    | 0xF0 => match rest with
      | [] => .ok .reset
      | _ :: _ => .error .trailing
    | 0x00 => .ok .reservedOp0
    | 0x40 => .ok .reservedOp4
    | 0x50 => .ok .reservedOp5
    | 0x60 => .ok .reservedOp6
    | 0x70 => .ok .reservedOp7
    | 0x80 => .ok .reservedOp8
    | 0x90 => .ok .reservedOp9
    | 0xA0 => .ok .reservedOpA
    | 0xB0 => .ok .reservedOpB
    | 0xC0 => .ok .reservedOpC
    | 0xD0 => .ok .reservedOpD
    | 0xE0 => .ok .reservedOpE
    | _ => .ok (.reservedHdr hdr)

/-- The transition that the parser state and the byte select; the row with the specific byte wins (R91). -/
def rxRow (f : FsmState) (b : Byte) (now : Nat) : Instr :=
  match f with
  | .waitSync0 => if b = sync0 then .rxWaitSync0Sync0 else .rxWaitSync0Other b
  | .waitSync1 =>
    if b = sync1 then .rxWaitSync1Sync1 else if b = sync0 then .rxWaitSync1Sync0Replay else .rxWaitSync1Other b
  | .readVersion => .rxReadVersion b
  | .readLenLo => .rxReadLenLo b
  | .readLenHi => .rxReadLenHi b
  | .readMsgId => .rxReadMsgId b
  | .readSeq => .rxReadSeq b
  | .readPayload => .rxReadPayload b
  | .readCrcLo => .rxReadCrcLo b
  | .readCrcHi => .rxReadCrcHi b now
  | .invalidA => .rxInvalidFsmA b
  | .invalidB => .rxInvalidFsmB b
  | .invalidC => .rxInvalidFsmC b
  | .invalidD => .rxInvalidFsmD b
  | .invalidE => .rxInvalidFsmE b
  | .invalidF => .rxInvalidFsmF b

/-- An `RX_BYTE` decode key (R91). -/
def decodeKey (key : Half) (now : Nat) : Except DecodeError Instr :=
  match FsmState.ofCode (hiByte key).toNat with
  | some f => .ok (rxRow f (loByte key) now)
  | none => .error (.noSuchRow key)

/-- The dispatch that a msg_id selects (R89). -/
def msgRow (id : Byte) (now : Nat) : Instr :=
  match id.toNat with
  | 0x10 => .msgControlCmd
  | 0x20 => .msgImu
  | 0x21 => .msgWheel
  | 0x22 => .msgSensor
  | 0x24 => .msgAck now
  | _ => .msgUnknown id

/-- The decoder. -/
def decode (c : Config) : Code → Except DecodeError Instr
  | .host bytes => decodeHost c bytes
  | .rx key now => decodeKey key now
  | .msg id now => .ok (msgRow id now)

/-! ### Encoding -/

/-- `(fsm << 8) | b` (R91). -/
def rxKey (f : FsmState) (b : Byte) : Half := (f.code.setWidth 16 <<< 8) ||| zext16 b

/-- The bytes of a transaction (R81): the header, then the operands in the order of R80. -/
def encodeHost (c : Config) (hdr : Byte) (operands : List Byte) (now : Nat) : Code :=
  .host (hdr :: operands ++ leBytes c.tsBytes now)

/-- The code of an instruction. A transition or dispatch that does not read `now` is written with 0 beside its key. -/
def encode (c : Config) (i : Instr) : Code :=
  match i with
  | .rxByte b now => encodeHost c 0x10#8 [b] now
  | .txFrame msgId seq payload now =>
    encodeHost c 0x20#8 (msgId :: seq :: leBytes 2 payload.length ++ payload) now
  | .sweep now => encodeHost c 0x30#8 [] now
  | .reset => .host [0xF0#8]
  | .reservedOp0 => .host [0x00#8]
  | .reservedOp4 => .host [0x40#8]
  | .reservedOp5 => .host [0x50#8]
  | .reservedOp6 => .host [0x60#8]
  | .reservedOp7 => .host [0x70#8]
  | .reservedOp8 => .host [0x80#8]
  | .reservedOp9 => .host [0x90#8]
  | .reservedOpA => .host [0xA0#8]
  | .reservedOpB => .host [0xB0#8]
  | .reservedOpC => .host [0xC0#8]
  | .reservedOpD => .host [0xD0#8]
  | .reservedOpE => .host [0xE0#8]
  | .reservedHdr hdr => .host [hdr]
  | .rxWaitSync0Sync0 => .rx (rxKey .waitSync0 sync0) 0
  | .rxWaitSync0Other b => .rx (rxKey .waitSync0 b) 0
  | .rxWaitSync1Sync1 => .rx (rxKey .waitSync1 sync1) 0
  | .rxWaitSync1Sync0Replay => .rx (rxKey .waitSync1 sync0) 0
  | .rxWaitSync1Other b => .rx (rxKey .waitSync1 b) 0
  | .rxReadVersion b => .rx (rxKey .readVersion b) 0
  | .rxReadLenLo b => .rx (rxKey .readLenLo b) 0
  | .rxReadLenHi b => .rx (rxKey .readLenHi b) 0
  | .rxReadMsgId b => .rx (rxKey .readMsgId b) 0
  | .rxReadSeq b => .rx (rxKey .readSeq b) 0
  | .rxReadPayload b => .rx (rxKey .readPayload b) 0
  | .rxReadCrcLo b => .rx (rxKey .readCrcLo b) 0
  | .rxReadCrcHi b now => .rx (rxKey .readCrcHi b) now
  | .rxInvalidFsmA b => .rx (rxKey .invalidA b) 0
  | .rxInvalidFsmB b => .rx (rxKey .invalidB b) 0
  | .rxInvalidFsmC b => .rx (rxKey .invalidC b) 0
  | .rxInvalidFsmD b => .rx (rxKey .invalidD b) 0
  | .rxInvalidFsmE b => .rx (rxKey .invalidE b) 0
  | .rxInvalidFsmF b => .rx (rxKey .invalidF b) 0
  | .msgControlCmd => .msg 0x10#8 0
  | .msgImu => .msg 0x20#8 0
  | .msgWheel => .msg 0x21#8 0
  | .msgSensor => .msg 0x22#8 0
  | .msgAck now => .msg 0x24#8 now
  | .msgUnknown id => .msg id 0

/-! ### The table's own numbering -/

/-- How many operand bytes follow a header when every operand is zero (`plen` too). -/
def zeroOperandBytes (c : Config) (hdr : Byte) : Nat :=
  match hdr.toNat with
  | 0x10 => 1 + c.tsBytes
  | 0x20 => 4 + c.tsBytes
  | 0x30 => c.tsBytes
  | _ => 0

/-- The transaction whose first `nbits` bits are those of `w` (bit 0 is bit 0 of the first byte) and whose other bits are 0. -/
def tableTransaction (c : Config) (nbits w : Nat) : List Byte :=
  let given := leBytes (nbits / 8) w
  match given with
  | [] => []
  | hdr :: _ => given ++ List.replicate (1 + zeroOperandBytes c hdr - given.length) 0#8

/-- The msg_id values that a `MSG.…` row fixes and no header row fixes: as 8-bit table words they stand for the dispatch row. -/
def dispatchWords : List Nat := [0x21, 0x22, 0x24]

/-- The code that a table word stands for. The table numbers three code spaces with the same bits: its 16-bit rows are `RX_BYTE` decode
keys (R91), the words of `dispatchWords` are msg_id values (R89), any other word is a host transaction (R81). -/
def tableCode (c : Config) (nbits w : Nat) : Code :=
  if nbits = 16 then .rx (BitVec.ofNat 16 w) 0
  else if nbits = 8 ∧ w ∈ dispatchWords then .msg (BitVec.ofNat 8 w) 0
  else .host (tableTransaction c nbits w)

/-- The instruction that the decoder reads from a table word. -/
def decodeTableWord (nbits w : Nat) : Option Instr :=
  match decode Config.default (tableCode Config.default nbits w) with
  | .ok i => some i
  | .error _ => none

/-- A row of spec/opcode_table.json: which bits of its word are fixed, and at what value. -/
structure TableRow where
  mask : Nat
  value : Nat
deriving DecidableEq, Repr

/-- The `mask` and `match` of an instruction's row, as spec/opcode_table.json gives them. -/
def Instr.row : Instr → TableRow
  | .rxByte _ _ => ⟨0xFF, 0x10⟩
  | .txFrame _ _ _ _ => ⟨0xFF, 0x20⟩
  | .sweep _ => ⟨0xFF, 0x30⟩
  | .reset => ⟨0xFF, 0xF0⟩
  | .reservedOp0 => ⟨0xFF, 0x00⟩
  | .reservedOp4 => ⟨0xFF, 0x40⟩
  | .reservedOp5 => ⟨0xFF, 0x50⟩
  | .reservedOp6 => ⟨0xFF, 0x60⟩
  | .reservedOp7 => ⟨0xFF, 0x70⟩
  | .reservedOp8 => ⟨0xFF, 0x80⟩
  | .reservedOp9 => ⟨0xFF, 0x90⟩
  | .reservedOpA => ⟨0xFF, 0xA0⟩
  | .reservedOpB => ⟨0xFF, 0xB0⟩
  | .reservedOpC => ⟨0xFF, 0xC0⟩
  | .reservedOpD => ⟨0xFF, 0xD0⟩
  | .reservedOpE => ⟨0xFF, 0xE0⟩
  | .reservedHdr _ => ⟨0x00, 0x00⟩
  | .rxWaitSync0Sync0 => ⟨0xFFFF, 0x0055⟩
  | .rxWaitSync0Other _ => ⟨0xFF00, 0x0000⟩
  | .rxWaitSync1Sync1 => ⟨0xFFFF, 0x01AA⟩
  | .rxWaitSync1Sync0Replay => ⟨0xFFFF, 0x0155⟩
  | .rxWaitSync1Other _ => ⟨0xFF00, 0x0100⟩
  | .rxReadVersion _ => ⟨0xFF00, 0x0200⟩
  | .rxReadLenLo _ => ⟨0xFF00, 0x0300⟩
  | .rxReadLenHi _ => ⟨0xFF00, 0x0400⟩
  | .rxReadMsgId _ => ⟨0xFF00, 0x0500⟩
  | .rxReadSeq _ => ⟨0xFF00, 0x0600⟩
  | .rxReadPayload _ => ⟨0xFF00, 0x0700⟩
  | .rxReadCrcLo _ => ⟨0xFF00, 0x0800⟩
  | .rxReadCrcHi _ _ => ⟨0xFF00, 0x0900⟩
  | .rxInvalidFsmA _ => ⟨0xFF00, 0x0A00⟩
  | .rxInvalidFsmB _ => ⟨0xFF00, 0x0B00⟩
  | .rxInvalidFsmC _ => ⟨0xFF00, 0x0C00⟩
  | .rxInvalidFsmD _ => ⟨0xFF00, 0x0D00⟩
  | .rxInvalidFsmE _ => ⟨0xFF00, 0x0E00⟩
  | .rxInvalidFsmF _ => ⟨0xFF00, 0x0F00⟩
  | .msgControlCmd => ⟨0xFF, 0x10⟩
  | .msgImu => ⟨0xFF, 0x20⟩
  | .msgWheel => ⟨0xFF, 0x21⟩
  | .msgSensor => ⟨0xFF, 0x22⟩
  | .msgAck _ => ⟨0xFF, 0x24⟩
  | .msgUnknown _ => ⟨0x00, 0x00⟩

/-- The word that the table matches: the header byte, the decode key, or the msg_id. -/
def Code.word : Code → Nat
  | .host (hdr :: _) => hdr.toNat
  | .host [] => 0
  | .rx key _ => key.toNat
  | .msg id _ => id.toNat

/-- A word lies in a row: its fixed bits have the row's values. -/
def TableRow.holds (r : TableRow) (w : Nat) : Bool := w &&& r.mask == r.value

end Sys2Proof
end

