-- ==== Sys2Proof/Machine/State.lean ====
section
/-! DEFINITION. The state of the block as plain data: every field of 10_state.md R20, the parameters of 00_scope.md R8, and the
model's own fields (what the host has presented, the link's answer, whether `RESET` has run). The reasons a step can stop. -/
namespace Sys2Proof.Machine

/-- The diagnostics of 30_encoding.md R88. Their codes stand in `DiagCode.byte`. -/
inductive DiagCode
  | lengthOverflow | crcMismatch | versionMismatch | txLengthReject | txWriteFail
deriving DecidableEq, Repr

/-- The events of 30_encoding.md R85. -/
inductive Event
  /-- `EV_FRAME`: one validated frame (R86). -/
  | frame (version msgId seq : Byte) (length : Half) (payload : List Byte)
  /-- `EV_RTT`: one matched Ack (R87); `rtt` in ticks, below `2^TS_WIDTH`. -/
  | rtt (seq : Byte) (rtt : Nat) (cmdId status info : Byte)
  /-- `EV_DIAG`: one diagnostic (R88). -/
  | diag (code : DiagCode) (a b : Half)
deriving DecidableEq, Repr

/-- One entry of the timestamp register file `PEND` (R32): `pend_valid[k]` and `pend_ts[k]`. -/
structure PendEntry where
  valid : Bool
  ts : Nat
deriving DecidableEq, Repr

/-- What the host does to the block, one item for each step, in the order the two agents' operations were taken (20_memory.md R70). -/
inductive HostAct
  /-- The host presents one transaction (R81); `txOk` is what the link answers if it is a `TX_FRAME` (R39). -/
  | op (transaction : List Byte) (txOk : Bool)
  /-- The host takes the event at the head of `evq` (R35). -/
  | takeEvent
  /-- The host takes the byte at the head of `txq` (R36). -/
  | takeByte
deriving DecidableEq, Repr

/-- The address space `PBUF` (20_memory.md R60): the entries that differ from what an unlisted index reads as, by rising index. -/
abbrev Memory := List Host.Cell

/-- The register file `PEND` (R60), held as `Memory` holds `PBUF`. -/
abbrev PendFile := List (Nat × PendEntry)

/-- The state. -/
structure State where
  /-- The parameters of R8: not state of the block, and never changed (R231). -/
  cfg : Config
  /-- MODEL's own: the first `RESET` has run (R233). -/
  ready : Bool
  /-- `fsm` (R22). -/
  fsm : FsmState
  /-- `f_version` (R24). -/
  fVersion : Byte
  /-- `f_length` (R25). -/
  fLength : Half
  /-- `f_msg_id` (R26). -/
  fMsgId : Byte
  /-- `f_seq` (R26). -/
  fSeq : Byte
  /-- `p_count` (R27). -/
  pCount : Byte
  /-- `pbuf[0..127]` (R27, R60). -/
  pbuf : Memory
  /-- `f_crc_rx` (R28). -/
  fCrcRx : Half
  /-- `pend_valid[0..255]` and `pend_ts[0..255]` (R32, R60). -/
  pend : PendFile
  /-- `evq` (R35), head first. -/
  evq : List Event
  /-- `txq` (R36), head first. -/
  txq : List Byte
  /-- MODEL's own: the link's answer `tx_ok` during the present step (R39). -/
  link : Bool
  /-- MODEL's own: what the host will present, first item first. -/
  input : List HostAct
deriving DecidableEq, Repr

/-- Why the block stops. Both are safe: the model stops where the block would go on, or where it waits. -/
inductive Fault
  /-- Raised by a payload write or a frame's payload read at an index of `PBUF` that does not exist (R60, R61: it never happens in a
  state that a run reaches). Safe. -/
  | pbufOutOfRange (index : Nat)
  /-- Raised by an operation that could emit more events than a finite `evq` has room for: the block holds the operation off until the
  host takes events (R242), so it has no step (I14). Never raised when `EVQ_DEPTH` is unbounded, the default. Safe. -/
  | evqFull
deriving DecidableEq, Repr

/-- Why an operation has no meaning. A refusal changes no state (60_exceptions.md R221). All are safe. -/
inductive Refusal
  /-- An instruction whose meaning is not written yet. Safe. -/
  | notModelled (mnemonic : String)
  /-- Raised by every operation but `RESET`, and by the host's takes, before the first `RESET` (R233, R221). Safe. -/
  | beforeReset
  /-- Raised by a header with a reserved op code (R90, R221). Safe. -/
  | reservedOp (op : BitVec 4)
  /-- Raised by a header whose bits 3:0 are not zero (R90, R221). Safe. -/
  | reservedHeader (hdr : Byte)
  /-- Raised by `RX_BYTE` in a state whose `fsm` code is `0xA` to `0xF` (R22, R221). Safe. -/
  | invalidFsm (code : BitVec 4)
  /-- Raised by a step whose transaction is none of R81's: empty, too short or too long. Safe. -/
  | badTransaction (why : DecodeError)
deriving DecidableEq, Repr

/-- The state right after `RESET` (70_reset_and_hazards.md R231), with the default parameters (R8) and nothing presented by the host.
`pbuf` and `pend_ts`, which R231 leaves unspecified, read as zero (DESIGN CHOICE, log entries 6 and 7). -/
def State.reset : State where
  cfg := Config.default
  ready := true
  fsm := .waitSync0
  fVersion := 0x00#8
  fLength := 0x0000#16
  fMsgId := 0x00#8
  fSeq := 0x00#8
  pCount := 0x00#8
  pbuf := []
  fCrcRx := 0x0000#16
  pend := []
  evq := []
  txq := []
  link := false
  input := []

end Sys2Proof.Machine
end

