-- ==== Sys2Proof/Machine/Ops.lean ====
section
/-! DEFINITION. The named operations every meaning is made of: reading and writing the two address spaces (20_memory.md R60), one
named update for each field, `emit`, `txout` and `raise` (00_scope.md R11), `parser_reset` (41_parser.md R121), and the two
checks that stand before an operation's effect (R233, R242). -/
namespace Sys2Proof.Machine

/-- The outcome of an operation of the block. -/
abbrev Result := Host.Outcome State Fault Refusal

/-! ### Sparse stores in canonical form -/

/-- The entry at index `i`; an unlisted index reads as `d`. -/
def storeRead {α : Type} (d : α) : List (Nat × α) → Nat → α
  | [], _ => d
  | (k, v) :: rest, i => if k = i then v else storeRead d rest i

/-- Puts an entry in front of the first entry of a higher index. -/
def storeInsert {α : Type} (i : Nat) (v : α) : List (Nat × α) → List (Nat × α)
  | [] => [(i, v)]
  | (k, w) :: rest => if i < k then (i, v) :: (k, w) :: rest else (k, w) :: storeInsert i v rest

/-- Writes entry `i`; writing what an unlisted index reads as leaves the index unlisted. -/
def storeWrite {α : Type} [DecidableEq α] (d : α) (m : List (Nat × α)) (i : Nat) (v : α) : List (Nat × α) :=
  let others := m.filter (fun c => c.1 ≠ i)
  if v = d then others else storeInsert i v others

/-- The canonical form: indexes strictly rising and below `size`, no entry equal to what an unlisted index reads as. -/
abbrev storeWf {α : Type} [DecidableEq α] (d : α) (size : Nat) (m : List (Nat × α)) : Prop :=
  m.Pairwise (fun a b => a.1 < b.1) ∧ ∀ c ∈ m, c.1 < size ∧ c.2 ≠ d

/-! ### `PBUF` -/

/-- What an index of `PBUF` that no entry lists reads as (DESIGN CHOICE, log entry 6: R27 and R231 leave it unspecified). -/
def pbufUnlisted : Byte := 0x00#8

/-- `MemRead(PBUF, i, 1)` (R11) for an index that exists. -/
def Memory.read (m : Memory) (i : Nat) : Byte := storeRead pbufUnlisted m i

/-- `MemWrite(PBUF, i, 1, v)` (R11) for an index that exists. -/
def Memory.write (m : Memory) (i : Nat) (v : Byte) : Memory := storeWrite pbufUnlisted m i v

/-- `PBUF` is in canonical form. -/
abbrev Memory.wf (m : Memory) : Prop := storeWf pbufUnlisted pbufEntries m

/-! ### `PEND` -/

/-- What an index of `PEND` that no entry lists reads as: not pending (R231); its timestamp is DESIGN CHOICE, log entry 7. -/
def pendUnlisted : PendEntry := ⟨false, 0⟩

/-- `MemRead(PEND, k, 1)` (R11). -/
def PendFile.read (p : PendFile) (k : Nat) : PendEntry := storeRead pendUnlisted p k

/-- `MemWrite(PEND, k, 1, e)` (R11). -/
def PendFile.write (p : PendFile) (k : Nat) (e : PendEntry) : PendFile := storeWrite pendUnlisted p k e

/-- `PEND` is in canonical form. -/
abbrev PendFile.wf (p : PendFile) : Prop := storeWf pendUnlisted pendEntries p

/-- `for k in 0 .. 255: s.pend_valid[k] <- 0` (R230); the timestamps keep their values. -/
def PendFile.clear (p : PendFile) : PendFile :=
  (List.range pendEntries).foldl (fun q k => q.write k ⟨false, (q.read k).ts⟩) p

/-! ### One named update for each field -/

/-- `fsm <- f` (R11). -/
def State.setFsm (s : State) (f : FsmState) : State := { s with fsm := f }
/-- `s.f_version <- v`. -/
def State.setVersion (s : State) (v : Byte) : State := { s with fVersion := v }
/-- `s.f_length <- v`. -/
def State.setLength (s : State) (v : Half) : State := { s with fLength := v }
/-- `s.f_msg_id <- v`. -/
def State.setMsgId (s : State) (v : Byte) : State := { s with fMsgId := v }
/-- `s.f_seq <- v`. -/
def State.setSeq (s : State) (v : Byte) : State := { s with fSeq := v }
/-- `s.p_count <- v`. -/
def State.setCount (s : State) (v : Byte) : State := { s with pCount := v }
/-- `s.f_crc_rx <- v`. -/
def State.setCrcRx (s : State) (v : Half) : State := { s with fCrcRx := v }
/-- `MemWrite(PBUF, i, 1, v)`. -/
def State.writePbuf (s : State) (i : Nat) (v : Byte) : State := { s with pbuf := Memory.write s.pbuf i v }
/-- The timestamp register file as a whole. -/
def State.setPend (s : State) (p : PendFile) : State := { s with pend := p }
/-- `MemWrite(PEND, k, 1, e)`. -/
def State.writePend (s : State) (k : Byte) (e : PendEntry) : State := s.setPend (PendFile.write s.pend k.toNat e)
/-- `emit e` (R11): the event goes to the tail of `evq`. -/
def State.emit (s : State) (e : Event) : State := { s with evq := s.evq ++ [e] }
/-- `txout(bytes)` (R11): the bytes go to the tail of `txq`, in order. -/
def State.txout (s : State) (bytes : List Byte) : State := { s with txq := s.txq ++ bytes }
/-- Both channels emptied (R230). -/
def State.emptyChannels (s : State) : State := { s with evq := [], txq := [] }
/-- The first `RESET` has run (R233). -/
def State.setReady (s : State) : State := { s with ready := true }
/-- `MemRead(PEND, k, 1)`. -/
def State.pendAt (s : State) (k : Byte) : PendEntry := PendFile.read s.pend k.toNat

/-- `raise Diag(code, a, b)` (R11, 60_exceptions.md R200): a diagnostic on the event channel; the operation goes on. -/
def State.raiseDiag (s : State) (code : DiagCode) (a b : Half) : State := s.emit (.diag code a b)

/-- `parser_reset` (R121). `pbuf`, `PEND`, `evq` and `txq` are not touched. -/
def State.parserReset (s : State) : State :=
  { s with fsm := .waitSync0, fVersion := 0x00#8, fLength := 0x0000#16, fMsgId := 0x00#8, fSeq := 0x00#8, pCount := 0x00#8,
           fCrcRx := 0x0000#16 }

/-! ### Sequencing, and the checks before an operation's effect -/

/-- Goes on from the next state; a fault or a refusal ends the operation. -/
def andThen (r : Result) (k : State → Result) : Result :=
  match r with
  | .next s => k s
  | .fault e => .fault e
  | .refused e => .refused e

/-- Before the first `RESET` every operation but `RESET` is refused (R233). -/
def whenReady (s : State) (r : Result) : Result := if s.ready then r else .refused .beforeReset

/-- `evq` has room for `n` more events (R242); an unbounded channel always has. -/
def State.hasRoom (s : State) (n : Nat) : Bool :=
  match s.cfg.evqDepth with
  | none => true
  | some depth => decide (s.evq.length + n ≤ depth)

/-- An operation that could emit `n` events is held off while `evq` lacks room for them (R242). -/
def whenRoom (n : Nat) (s : State) (r : Result) : Result := if s.hasRoom n then r else .fault .evqFull

/-- The next state of an outcome, if it has one. -/
def nextOf : Result → Option State
  | .next s => some s
  | .fault _ => none
  | .refused _ => none

end Sys2Proof.Machine
end

