-- ==== Sys2Proof/Machine/Operands.lean ====
section
/-! DEFINITION. The operands the rules read: timestamps and their modular difference (00_scope.md R12), the accumulated payload
(10_state.md R27), the CRC span (40_crc_validator.md R103) and the fields of an Ack (42_correlator.md R151). -/
namespace Sys2Proof.Machine

/-- A timestamp as the block holds it: `TS_WIDTH` bits (R40). -/
def tsTrunc (c : Config) (t : Nat) : Nat := t % c.tsModulus

/-- `(a - b) mod 2^TS_WIDTH` (R12). -/
def tsSub (c : Config) (a b : Nat) : Nat :=
  (tsTrunc c a + (c.tsModulus - tsTrunc c b)) % c.tsModulus

/-- `[ MemRead(PBUF, i, 1) for i in 0 .. f_length-1 ]` (R103, R107); none if an index does not exist. -/
def State.payload (s : State) : Option (List Byte) :=
  if s.fLength.toNat ≤ pbufEntries then some ((List.range s.fLength.toNat).map (Memory.read s.pbuf)) else none

/-- The CRC span of a frame with these fields (R103, R181). -/
def spanOf (version : Byte) (length : Half) (msgId seq : Byte) (payload : List Byte) : List Byte :=
  [version, loByte length, hiByte length, msgId, seq] ++ payload

/-- `span(s)` (R103), given the payload. -/
def State.span (s : State) (payload : List Byte) : List Byte := spanOf s.fVersion s.fLength s.fMsgId s.fSeq payload

/-- `cmd_id` of an Ack (R151). -/
def State.ackCmdId (s : State) : Byte := Memory.read s.pbuf 0
/-- `status` of an Ack (R151). -/
def State.ackStatus (s : State) : Byte := Memory.read s.pbuf 1
/-- `info` of an Ack: zero when the payload has no byte 2 (R151). -/
def State.ackInfo (s : State) : Byte := if 3 ≤ s.fLength.toNat then Memory.read s.pbuf 2 else 0x00#8

end Sys2Proof.Machine
end

