-- ==== Sys2Proof/Machine/Flags.lean ====
section
/-! DEFINITION. The block has no status flags and no condition codes (10_state.md R30). These are the conditions its rules test. -/
namespace Sys2Proof.Machine

/-- The declared length is above `MAX_LEN` (R126, R182). -/
def lengthOverflows (n : Nat) : Bool := decide (maxLen < n)

/-- `expired(ts, now)` (R164). -/
def expired (c : Config) (ts now : Nat) : Bool :=
  match c.ackExpiry with
  | none => false
  | some horizon => decide (horizon < tsSub c now ts)

/-- The frame's payload has the two mandatory bytes of an Ack (R152). -/
def State.ackLongEnough (s : State) : Bool := decide (ackMinLen ≤ s.fLength.toNat)

/-- The payload is complete: `p_count = f_length` (R129). -/
def State.payloadComplete (s : State) : Bool := decide (s.pCount.toNat = s.fLength.toNat)

/-- The numeric codes of R88. -/
def DiagCode.byte : DiagCode → Byte
  | .lengthOverflow => 0x01#8
  | .crcMismatch => 0x02#8
  | .versionMismatch => 0x03#8
  | .txLengthReject => 0x04#8
  | .txWriteFail => 0x05#8

/-- The 2-bit kind of an event (R85); kind 0 is never emitted. -/
def Event.kind : Event → BitVec 2
  | .frame _ _ _ _ _ => 1#2
  | .rtt _ _ _ _ _ => 2#2
  | .diag _ _ _ => 3#2

end Sys2Proof.Machine
end

