-- ==== Sys2Proof/Machine/Correlator.lean ====
section
/-! DEFINITION. The sequence / ACK correlator over the timestamp register file (42_correlator.md R150 to R165). -/
namespace Sys2Proof.Machine

/-- `ack_correlate(s, now)` (R150); the key is the header's seq (`ACK_KEY = HEADER_SEQ`, R153). -/
def ackCorrelate (now : Nat) (s : State) : State :=
  if s.ackLongEnough then
    let e := s.pendAt s.fSeq
    if e.valid then
      if expired s.cfg e.ts now then s.writePend s.fSeq ⟨false, e.ts⟩
      else (s.writePend s.fSeq ⟨false, e.ts⟩).emit
        (.rtt s.fSeq (tsSub s.cfg now e.ts) s.ackCmdId s.ackStatus s.ackInfo)
    else s
  else s

/-- `tx_record(seq, now)` (R160). -/
def txRecord (seq : Byte) (now : Nat) (s : State) : State := s.writePend seq ⟨true, tsTrunc s.cfg now⟩

/-- One turn of the loop of `SWEEP` (R165). -/
def sweepEntry (c : Config) (now : Nat) (p : PendFile) (k : Nat) : PendFile :=
  let e := PendFile.read p k
  if e.valid && expired c e.ts now then PendFile.write p k ⟨false, e.ts⟩ else p

/-- The loop of `SWEEP` (R165). -/
def sweepAll (c : Config) (now : Nat) (p : PendFile) : PendFile := (List.range pendEntries).foldl (sweepEntry c now) p

end Sys2Proof.Machine
end

