-- ==== Sys2Proof/Machine/Crc.lean ====
section
/-! DEFINITION. The CRC-16-CCITT engine, frame validation and the frame encoder (40_crc_validator.md R100 to R105,
43_tx_framer.md R181). -/
namespace Sys2Proof.Machine

/-- One turn of the loop of `crc_step` (R100). -/
def crcBit (c : Half) : Half := if c.msb then (c <<< 1) ^^^ crcPoly else c <<< 1

/-- `crc_step(c, x)` (R100). -/
def crcStep (c : Half) (x : Byte) : Half := crcBit^[8] (c ^^^ (zext16 x <<< 8))

/-- `crc16(m)` (R101). -/
def crc16 (m : List Byte) : Half := m.foldl crcStep crcInit ^^^ crcXorOut

/-- What `validate` answers (R105). -/
inductive Verdict
  | ok
  | crcMismatch (rx computed : Half)
  | versionMismatch (v : Byte)
deriving DecidableEq, Repr

/-- `validate(s)` with `CHECK_ORDER = CRC_FIRST` (R105), given the payload. -/
def validate (s : State) (payload : List Byte) : Verdict :=
  let computed := crc16 (s.span payload)
  if computed ≠ s.fCrcRx then .crcMismatch s.fCrcRx computed
  else if s.fVersion ≠ protoVersion then .versionMismatch s.fVersion
  else .ok

/-- `encode(msg_id, seq, p)` (R181). -/
def encodeFrame (msgId seq : Byte) (p : List Byte) : List Byte :=
  let body := spanOf protoVersion (BitVec.ofNat 16 p.length) msgId seq p
  let c := crc16 body
  [sync0, sync1] ++ body ++ [loByte c, hiByte c]

end Sys2Proof.Machine
end

