-- ==== Sys2Proof/Machine/Messages.lean ====
section
/-! DEFINITION. The dispatch of a validated frame (40_crc_validator.md R107), one meaning for each `MSG.…` row (30_encoding.md R89). -/
namespace Sys2Proof.Machine

/-- The first line of `dispatch` (R107): the frame in the parser's fields goes out as `EV_FRAME`. -/
def emitFrame (s : State) : Result :=
  match s.payload with
  | some p => .next (s.emit (.frame s.fVersion s.fMsgId s.fSeq s.fLength p))
  | none => .fault (.pbufOutOfRange pbufEntries)

/-- The dispatch of a kind that goes to no correlator (R89): one event at most. -/
def dispatchPlain (s : State) : Result := whenReady s (whenRoom 1 s (emitFrame s))

/-- `MSG.ControlCmd` (R107). -/
def execMsgControlCmd (s : State) : Result := dispatchPlain s
/-- `MSG.Imu` (R107). -/
def execMsgImu (s : State) : Result := dispatchPlain s
/-- `MSG.Wheel` (R107). -/
def execMsgWheel (s : State) : Result := dispatchPlain s
/-- `MSG.Sensor` (R107). -/
def execMsgSensor (s : State) : Result := dispatchPlain s
/-- `MSG.unknown` (R107): the frame is dispatched like any other; its msg_id is the parser's. -/
def execMsgUnknown (_id : Byte) (s : State) : Result := dispatchPlain s
/-- `MSG.Ack` (R107, R150): `EV_FRAME`, then the correlator; two events at most. -/
def execMsgAck (now : Nat) (s : State) : Result :=
  whenReady s (whenRoom 2 s (andThen (emitFrame s) (fun t => .next (ackCorrelate now t))))

/-- `dispatch(s, now)` (R107): the row that the frame's msg_id selects. -/
def dispatch (now : Nat) (s : State) : Result :=
  match s.fMsgId.toNat with
  | 0x10 => execMsgControlCmd s
  | 0x20 => execMsgImu s
  | 0x21 => execMsgWheel s
  | 0x22 => execMsgSensor s
  | 0x24 => execMsgAck now s
  | _ => execMsgUnknown s.fMsgId s

end Sys2Proof.Machine
end

