-- ==== Sys2Proof/Machine/Parser.lean ====
section
/-! DEFINITION. The transitions of `RX_BYTE` (41_parser.md R122 to R131), one meaning for each `RX.…` row (30_encoding.md R91). A
row's meaning is the body of its state's rule: it is run in the state whose code the row's key holds. -/
namespace Sys2Proof.Machine

/-- `st_wait_sync0(b)` (R122). -/
def stWaitSync0 (b : Byte) (s : State) : State := if b = sync0 then s.setFsm .waitSync1 else s

/-- `st_wait_sync1(b)` for a byte that is not `SYNC1` (R123). -/
def stWaitSync1Other (b : Byte) (s : State) : State :=
  let t := s.setFsm .waitSync0
  if t.cfg.sync1Replay then stWaitSync0 b t else t

/-- `RX.WaitSync0.sync0` (R122). -/
def execRxWaitSync0Sync0 (s : State) : Result := whenReady s (.next (stWaitSync0 sync0 s))
/-- `RX.WaitSync0.other` (R122). -/
def execRxWaitSync0Other (b : Byte) (s : State) : Result := whenReady s (.next (stWaitSync0 b s))
/-- `RX.WaitSync1.sync1` (R123). -/
def execRxWaitSync1Sync1 (s : State) : Result := whenReady s (.next (s.setFsm .readVersion))
/-- `RX.WaitSync1.sync0_replay` (R123). -/
def execRxWaitSync1Sync0Replay (s : State) : Result := whenReady s (.next (stWaitSync1Other sync0 s))
/-- `RX.WaitSync1.other` (R123). -/
def execRxWaitSync1Other (b : Byte) (s : State) : Result := whenReady s (.next (stWaitSync1Other b s))

/-- `RX.ReadVersion` (R124). -/
def execRxReadVersion (b : Byte) (s : State) : Result := whenReady s (.next ((s.setVersion b).setFsm .readLenLo))

/-- `RX.ReadLenLo` (R125). -/
def execRxReadLenLo (b : Byte) (s : State) : Result := whenReady s (.next ((s.setLength (zext16 b)).setFsm .readLenHi))

/-- `RX.ReadLenHi` (R126). -/
def execRxReadLenHi (b : Byte) (s : State) : Result :=
  whenReady s (whenRoom 1 s (
    let t := s.setLength (s.fLength ||| (zext16 b <<< 8))
    if lengthOverflows t.fLength.toNat then .next (t.raiseDiag .lengthOverflow t.fLength 0x0000#16).parserReset
    else .next ((t.setCount 0x00#8).setFsm .readMsgId)))

/-- `RX.ReadMsgId` (R127). -/
def execRxReadMsgId (b : Byte) (s : State) : Result := whenReady s (.next ((s.setMsgId b).setFsm .readSeq))

/-- `RX.ReadSeq` (R128). -/
def execRxReadSeq (b : Byte) (s : State) : Result :=
  whenReady s (.next ((s.setSeq b).setFsm (if s.fLength = 0x0000#16 then .readCrcLo else .readPayload)))

/-- `RX.ReadPayload` (R129). The index is `p_count`, which exists in every state that a run reaches (R61). -/
def execRxReadPayload (b : Byte) (s : State) : Result :=
  whenReady s (
    if s.pCount.toNat < pbufEntries then
      let t := (s.writePbuf s.pCount.toNat b).setCount (s.pCount + 1#8)
      .next (if t.payloadComplete then t.setFsm .readCrcLo else t)
    else .fault (.pbufOutOfRange s.pCount.toNat))

/-- `RX.ReadCrcLo` (R130). -/
def execRxReadCrcLo (b : Byte) (s : State) : Result := whenReady s (.next ((s.setCrcRx (zext16 b)).setFsm .readCrcHi))

/-- What follows the verdict (R131): `dispatch` (R107) or `drop` (R108). -/
def concludeFrame (v : Verdict) (now : Nat) (s : State) : Result :=
  match v with
  | .ok => dispatch now s
  | .crcMismatch rx computed => .next (s.raiseDiag .crcMismatch rx computed)
  | .versionMismatch v => .next (s.raiseDiag .versionMismatch (zext16 v) (zext16 protoVersion))

/-- `RX.ReadCrcHi` (R131): two events at most, so room for two (R242). -/
def execRxReadCrcHi (b : Byte) (now : Nat) (s : State) : Result :=
  whenReady s (whenRoom 2 s (
    let t := s.setCrcRx (s.fCrcRx ||| (zext16 b <<< 8))
    match t.payload with
    | none => .fault (.pbufOutOfRange pbufEntries)
    | some p => andThen (concludeFrame (validate t p) now t) (fun u => .next u.parserReset)))

/-- `RX.invalid_fsm_A` (R22, R221). -/
def execRxInvalidFsmA (_b : Byte) (_s : State) : Result := .refused (.invalidFsm 0xA#4)
/-- `RX.invalid_fsm_B` (R22, R221). -/
def execRxInvalidFsmB (_b : Byte) (_s : State) : Result := .refused (.invalidFsm 0xB#4)
/-- `RX.invalid_fsm_C` (R22, R221). -/
def execRxInvalidFsmC (_b : Byte) (_s : State) : Result := .refused (.invalidFsm 0xC#4)
/-- `RX.invalid_fsm_D` (R22, R221). -/
def execRxInvalidFsmD (_b : Byte) (_s : State) : Result := .refused (.invalidFsm 0xD#4)
/-- `RX.invalid_fsm_E` (R22, R221). -/
def execRxInvalidFsmE (_b : Byte) (_s : State) : Result := .refused (.invalidFsm 0xE#4)
/-- `RX.invalid_fsm_F` (R22, R221). -/
def execRxInvalidFsmF (_b : Byte) (_s : State) : Result := .refused (.invalidFsm 0xF#4)

end Sys2Proof.Machine
end

