-- ==== Sys2Proof/Machine/HostOps.lean ====
section
/-! DEFINITION. The four host operations (30_encoding.md R80) and the reserved headers (R90). -/
namespace Sys2Proof.Machine

/-- `RX_BYTE b @now` (41_parser.md R120): the transition that the parser state and the byte select (R91). -/
def execRxByte (b : Byte) (now : Nat) (s : State) : Result :=
  match s.fsm with
  | .waitSync0 => if b = sync0 then execRxWaitSync0Sync0 s else execRxWaitSync0Other b s
  | .waitSync1 =>
    if b = sync1 then execRxWaitSync1Sync1 s else if b = sync0 then execRxWaitSync1Sync0Replay s else execRxWaitSync1Other b s
  | .readVersion => execRxReadVersion b s
  | .readLenLo => execRxReadLenLo b s
  | .readLenHi => execRxReadLenHi b s
  | .readMsgId => execRxReadMsgId b s
  | .readSeq => execRxReadSeq b s
  | .readPayload => execRxReadPayload b s
  | .readCrcLo => execRxReadCrcLo b s
  | .readCrcHi => execRxReadCrcHi b now s
  | .invalidA => execRxInvalidFsmA b s
  | .invalidB => execRxInvalidFsmB b s
  | .invalidC => execRxInvalidFsmC b s
  | .invalidD => execRxInvalidFsmD b s
  | .invalidE => execRxInvalidFsmE b s
  | .invalidF => execRxInvalidFsmF b s

/-- `TX_FRAME` (43_tx_framer.md R180): one event at most. -/
def execTxFrame (msgId seq : Byte) (payload : List Byte) (now : Nat) (s : State) : Result :=
  whenReady s (whenRoom 1 s (
    if lengthOverflows payload.length then
      .next (s.raiseDiag .txLengthReject (BitVec.ofNat 16 payload.length) (BitVec.ofNat 16 maxLen))
    else
      let t := s.txout (encodeFrame msgId seq payload)
      if t.link then .next (txRecord seq now t)
      else .next (t.raiseDiag .txWriteFail (zext16 seq) (zext16 msgId))))

/-- `SWEEP @now` (42_correlator.md R165). -/
def execSweep (now : Nat) (s : State) : Result := whenReady s (.next (s.setPend (sweepAll s.cfg now s.pend)))

/-- `RESET` (70_reset_and_hazards.md R230), the one operation that runs before the first `RESET`. -/
def execReset (s : State) : Result := .next ((s.parserReset.setPend (PendFile.clear s.pend)).emptyChannels.setReady)

/-- `RESERVED_OP_0` (R90). -/
def execReservedOp0 (_s : State) : Result := .refused (.reservedOp 0x0#4)
/-- `RESERVED_OP_4` (R90). -/
def execReservedOp4 (_s : State) : Result := .refused (.reservedOp 0x4#4)
/-- `RESERVED_OP_5` (R90). -/
def execReservedOp5 (_s : State) : Result := .refused (.reservedOp 0x5#4)
/-- `RESERVED_OP_6` (R90). -/
def execReservedOp6 (_s : State) : Result := .refused (.reservedOp 0x6#4)
/-- `RESERVED_OP_7` (R90). -/
def execReservedOp7 (_s : State) : Result := .refused (.reservedOp 0x7#4)
/-- `RESERVED_OP_8` (R90). -/
def execReservedOp8 (_s : State) : Result := .refused (.reservedOp 0x8#4)
/-- `RESERVED_OP_9` (R90). -/
def execReservedOp9 (_s : State) : Result := .refused (.reservedOp 0x9#4)
/-- `RESERVED_OP_A` (R90). -/
def execReservedOpA (_s : State) : Result := .refused (.reservedOp 0xA#4)
/-- `RESERVED_OP_B` (R90). -/
def execReservedOpB (_s : State) : Result := .refused (.reservedOp 0xB#4)
/-- `RESERVED_OP_C` (R90). -/
def execReservedOpC (_s : State) : Result := .refused (.reservedOp 0xC#4)
/-- `RESERVED_OP_D` (R90). -/
def execReservedOpD (_s : State) : Result := .refused (.reservedOp 0xD#4)
/-- `RESERVED_OP_E` (R90). -/
def execReservedOpE (_s : State) : Result := .refused (.reservedOp 0xE#4)
/-- `RESERVED_HDR` (R90). -/
def execReservedHdr (hdr : Byte) (_s : State) : Result := .refused (.reservedHeader hdr)

end Sys2Proof.Machine
end

