-- ==== Sys2Proof/Machine/Dispatch.lean ====
section
/-! DEFINITION. The dispatch of an instruction to its meaning: one arm for each row of spec/opcode_table.json. -/
namespace Sys2Proof.Machine

def exec (i : Instr) (s : State) : Host.Outcome State Fault Refusal :=
  match i with
  | .rxByte b now => Sys2Proof.Machine.execRxByte b now s
  | .txFrame msgId seq payload now => Sys2Proof.Machine.execTxFrame msgId seq payload now s
  | .sweep now => Sys2Proof.Machine.execSweep now s
  | .reset => Sys2Proof.Machine.execReset s
  | .reservedOp0 => Sys2Proof.Machine.execReservedOp0 s
  | .reservedOp4 => Sys2Proof.Machine.execReservedOp4 s
  | .reservedOp5 => Sys2Proof.Machine.execReservedOp5 s
  | .reservedOp6 => Sys2Proof.Machine.execReservedOp6 s
  | .reservedOp7 => Sys2Proof.Machine.execReservedOp7 s
  | .reservedOp8 => Sys2Proof.Machine.execReservedOp8 s
  | .reservedOp9 => Sys2Proof.Machine.execReservedOp9 s
  | .reservedOpA => Sys2Proof.Machine.execReservedOpA s
  | .reservedOpB => Sys2Proof.Machine.execReservedOpB s
  | .reservedOpC => Sys2Proof.Machine.execReservedOpC s
  | .reservedOpD => Sys2Proof.Machine.execReservedOpD s
  | .reservedOpE => Sys2Proof.Machine.execReservedOpE s
  | .reservedHdr hdr => Sys2Proof.Machine.execReservedHdr hdr s
  | .rxWaitSync0Sync0 => Sys2Proof.Machine.execRxWaitSync0Sync0 s
  | .rxWaitSync0Other b => Sys2Proof.Machine.execRxWaitSync0Other b s
  | .rxWaitSync1Sync1 => Sys2Proof.Machine.execRxWaitSync1Sync1 s
  | .rxWaitSync1Sync0Replay => Sys2Proof.Machine.execRxWaitSync1Sync0Replay s
  | .rxWaitSync1Other b => Sys2Proof.Machine.execRxWaitSync1Other b s
  | .rxReadVersion b => Sys2Proof.Machine.execRxReadVersion b s
  | .rxReadLenLo b => Sys2Proof.Machine.execRxReadLenLo b s
  | .rxReadLenHi b => Sys2Proof.Machine.execRxReadLenHi b s
  | .rxReadMsgId b => Sys2Proof.Machine.execRxReadMsgId b s
  | .rxReadSeq b => Sys2Proof.Machine.execRxReadSeq b s
  | .rxReadPayload b => Sys2Proof.Machine.execRxReadPayload b s
  | .rxReadCrcLo b => Sys2Proof.Machine.execRxReadCrcLo b s
  | .rxReadCrcHi b now => Sys2Proof.Machine.execRxReadCrcHi b now s
  | .rxInvalidFsmA b => Sys2Proof.Machine.execRxInvalidFsmA b s
  | .rxInvalidFsmB b => Sys2Proof.Machine.execRxInvalidFsmB b s
  | .rxInvalidFsmC b => Sys2Proof.Machine.execRxInvalidFsmC b s
  | .rxInvalidFsmD b => Sys2Proof.Machine.execRxInvalidFsmD b s
  | .rxInvalidFsmE b => Sys2Proof.Machine.execRxInvalidFsmE b s
  | .rxInvalidFsmF b => Sys2Proof.Machine.execRxInvalidFsmF b s
  | .msgControlCmd => Sys2Proof.Machine.execMsgControlCmd s
  | .msgImu => Sys2Proof.Machine.execMsgImu s
  | .msgWheel => Sys2Proof.Machine.execMsgWheel s
  | .msgSensor => Sys2Proof.Machine.execMsgSensor s
  | .msgAck now => Sys2Proof.Machine.execMsgAck now s
  | .msgUnknown id => Sys2Proof.Machine.execMsgUnknown id s

end Sys2Proof.Machine
end

