-- ==== Sys2Proof/Machine/Present.lean ====
section
/-! DEFINITION. What one item of the host's input does: a transaction, a take from a channel; and how a table word is presented. -/
namespace Sys2Proof.Machine

/-- One transaction, with the link's answer for this step (R39, R81). -/
def stepTransaction (bytes : List Byte) (txOk : Bool) (s : State) : Result :=
  match decode s.cfg (.host bytes) with
  | .ok i => exec i { s with link := txOk }
  | .error e => .refused (.badTransaction e)

/-- The host takes the event at the head of `evq` (R35, R209); from an empty channel it takes nothing. -/
def takeEvent (s : State) : Result := whenReady s (.next { s with evq := s.evq.drop 1 })

/-- The host takes the byte at the head of `txq` (R36); from an empty stream it takes nothing. -/
def takeByte (s : State) : Result := whenReady s (.next { s with txq := s.txq.drop 1 })

/-- The transaction `RX_BYTE b @0` (R81). -/
def rxByteTransaction (c : Config) (b : Byte) : List Byte := 0x10#8 :: b :: leBytes c.tsBytes 0

/-- `s` with one byte of a received frame presented next. -/
def State.presentByte (s : State) (b : Byte) : State :=
  { s with input := .op (rxByteTransaction s.cfg b) s.link :: s.input }

/-- `s` with the instruction of a code presented next. A transaction: itself. An `RX_BYTE` decode key: its byte, with the parser in the
state that the key names. A msg_id: the last CRC byte of a frame of that kind with an empty payload, the rest of which the parser has
read, so that the step validates and dispatches it. -/
def State.presentCode (s : State) : Code → State
  | .rx key _ => (s.setFsm ((FsmState.ofCode (hiByte key).toNat).getD s.fsm)).presentByte (loByte key)
  | .msg id _ =>
    let t := ((s.setVersion protoVersion).setLength 0x0000#16).setMsgId id
    let crc := crc16 (t.span [])
    ((t.setCrcRx (zext16 (loByte crc))).setFsm .readCrcHi).presentByte (hiByte crc)
  | .host bytes => { s with input := .op bytes s.link :: s.input }

end Sys2Proof.Machine
end

