-- ==== Sys2Proof/Machine/Step.lean ====
section
/-! DEFINITION. One step: the block performs what the host presents next, one atomic operation (00_scope.md R13), and is otherwise
idle (60_exceptions.md R220). The block fetches no program (20_memory.md R76): its next instruction is the transaction at the head of
`input`. -/
namespace Sys2Proof.Machine

/-- One step. -/
def step (s : State) : Host.Outcome State Fault Refusal :=
  match s.input with
  | [] => .next s
  | .op bytes txOk :: rest => stepTransaction bytes txOk { s with input := rest }
  | .takeEvent :: rest => takeEvent { s with input := rest }
  | .takeByte :: rest => takeByte { s with input := rest }

/-- `s` with the instruction of a table word presented next (log entries 1 and 3). -/
def State.withFetchWord (s : State) (nbits w : Nat) : State := s.presentCode (tableCode s.cfg nbits w)

end Sys2Proof.Machine
end

