-- ==== Sys2Proof/Machine/Chunk.lean ====
section
/-! DEFINITION. The pseudo-operations of the spec's syntax (30_encoding.md R94): they are no instructions, each is the `RX_BYTE`s it
expands to. -/
namespace Sys2Proof.Machine

/-- One `RX_BYTE` for each byte, in order, each at its own timestamp. -/
def rxStream : List (Byte × Nat) → State → Result
  | [], s => .next s
  | x :: rest, s => andThen (exec (.rxByte x.1 x.2) s) (rxStream rest)

/-- `RX_CHUNK [<bytes>] @<now>` (R94). -/
def rxChunk (bytes : List Byte) (now : Nat) (s : State) : Result := rxStream (bytes.map (fun b => (b, now))) s

/-- `RX_FRAME <msg_id> <seq> [<payload>] @<now>` (R94). -/
def rxFrame (msgId seq : Byte) (payload : List Byte) (now : Nat) (s : State) : Result :=
  rxChunk (encodeFrame msgId seq payload) now s

end Sys2Proof.Machine
end

