-- ==== Sys2Proof/Safety.lean ====
section
/-! DEFINITION. What claims are stated in: the invariant of the block's state, and the parts of the state that the rules speak of. -/
namespace Sys2Proof.Machine

/-- The parser fields agree with the parser state: R25 (the length bound), R27 (the payload count), R28, R29 (the fields are zero
until a frame is being read); `fsm` holds one of its ten states (R22). -/
def State.parserFits (s : State) : Prop :=
  match s.fsm with
  | .waitSync0 | .waitSync1 | .readVersion =>
    s.fVersion = 0#8 ∧ s.fLength = 0#16 ∧ s.fMsgId = 0#8 ∧ s.fSeq = 0#8 ∧ s.pCount = 0#8 ∧ s.fCrcRx = 0#16
  | .readLenLo => s.fLength = 0#16 ∧ s.fMsgId = 0#8 ∧ s.fSeq = 0#8 ∧ s.pCount = 0#8 ∧ s.fCrcRx = 0#16
  | .readLenHi => s.fLength.toNat < 256 ∧ s.fMsgId = 0#8 ∧ s.fSeq = 0#8 ∧ s.pCount = 0#8 ∧ s.fCrcRx = 0#16
  | .readMsgId => s.fLength.toNat ≤ maxLen ∧ s.fMsgId = 0#8 ∧ s.fSeq = 0#8 ∧ s.pCount = 0#8 ∧ s.fCrcRx = 0#16
  | .readSeq => s.fLength.toNat ≤ maxLen ∧ s.fSeq = 0#8 ∧ s.pCount = 0#8 ∧ s.fCrcRx = 0#16
  | .readPayload => s.fLength.toNat ≤ maxLen ∧ s.pCount.toNat < s.fLength.toNat ∧ s.fCrcRx = 0#16
  | .readCrcLo => s.fLength.toNat ≤ maxLen ∧ s.pCount.toNat = s.fLength.toNat ∧ s.fCrcRx = 0#16
  | .readCrcHi => s.fLength.toNat ≤ maxLen ∧ s.pCount.toNat = s.fLength.toNat ∧ s.fCrcRx.toNat < 256
  | .invalidA | .invalidB | .invalidC | .invalidD | .invalidE | .invalidF => False

/-- An event carries what R86, R87 and R88 let it carry. -/
def Event.fits (c : Config) : Event → Prop
  | .frame version _ _ length payload =>
    version = protoVersion ∧ payload.length = length.toNat ∧ length.toNat ≤ maxLen
  | .rtt _ elapsed _ _ _ => elapsed < c.tsModulus
  | .diag .lengthOverflow a b => maxLen < a.toNat ∧ b = 0#16
  | .diag .crcMismatch a b => a ≠ b
  | .diag .versionMismatch a b => a ≠ b ∧ a.toNat < 256 ∧ b = zext16 protoVersion
  | .diag .txLengthReject a b => maxLen < a.toNat ∧ b.toNat = maxLen
  | .diag .txWriteFail a b => a.toNat < 256 ∧ b.toNat < 256

/-- The invariant of the block: it holds after `RESET` and every step keeps it. -/
structure State.Inv (s : State) : Prop where
  /-- R22, R25, R27, R28, R29. -/
  parser : s.parserFits
  /-- R60: only indexes 0 to 127, in canonical form. -/
  pbuf : Memory.wf s.pbuf
  /-- R60: only indexes 0 to 255, in canonical form. -/
  pend : PendFile.wf s.pend
  /-- R32, R40: a timestamp has `TS_WIDTH` bits. -/
  stamps : ∀ c ∈ s.pend, c.2.ts < s.cfg.tsModulus
  /-- R86 to R88. -/
  events : ∀ e ∈ s.evq, e.fits s.cfg
  /-- R242: a finite channel never holds more than its depth. -/
  depth : ∀ d, s.cfg.evqDepth = some d → s.evq.length ≤ d

/-- Two states with the same parser: `fsm` through `f_crc_rx` of R20. -/
def State.sameParser (s t : State) : Prop :=
  t.fsm = s.fsm ∧ t.fVersion = s.fVersion ∧ t.fLength = s.fLength ∧ t.fMsgId = s.fMsgId ∧ t.fSeq = s.fSeq ∧
  t.pCount = s.pCount ∧ t.pbuf = s.pbuf ∧ t.fCrcRx = s.fCrcRx

/-- Every parser register that `parser_reset` clears is zero, and the parser hunts for sync (R121). -/
def State.parserInitial (s : State) : Prop :=
  s.fsm = .waitSync0 ∧ s.fVersion = 0#8 ∧ s.fLength = 0#16 ∧ s.fMsgId = 0#8 ∧ s.fSeq = 0#8 ∧ s.pCount = 0#8 ∧ s.fCrcRx = 0#16

/-- `F` is laid out as a frame of length `n` up to its CRC bytes' values: sync marker, length bytes, and `9 + n` bytes in all (R82). -/
def frameShaped (n : Nat) (F : List Byte) : Prop :=
  ∃ version lo hi msgId seq payload crcLo crcHi,
    F = [0x55#8, 0xAA#8, version, lo, hi, msgId, seq] ++ payload ++ [crcLo, crcHi] ∧ (le16 lo hi).toNat = n ∧ payload.length = n

/-- `r` is the time from `ts` to `now`, modulo `2^TS_WIDTH` (R12, R156). -/
def elapsesTo (c : Config) (ts r now : Nat) : Prop := r < c.tsModulus ∧ (ts + r) % c.tsModulus = now % c.tsModulus

/-- The receiver can take any byte: `RESET` has run, and the event channel is the unbounded one (R35). -/
def State.receives (s : State) : Prop := s.ready = true ∧ s.cfg.evqDepth = none

/-- Two states with the same model fields: the parameters, whether `RESET` has run, the link's answer, the host's input. -/
def State.sameModel (s t : State) : Prop :=
  t.cfg = s.cfg ∧ t.ready = s.ready ∧ t.link = s.link ∧ t.input = s.input

end Sys2Proof.Machine
end

