-- ==== Sys2Proof/Certificates/Slice0/Obligations.lean ====
section
/-! DEFINITION. The statements for the provers. -/
open Sys2Proof Sys2Proof.Machine

/-! ### Reset -/

/-- The values that R231 gives after `RESET`, field by field. The model's own clauses, no rule of the spec: the parameters are the defaults
of R8 (log entry 4), and `RESET` leads from this state to itself, its own fields and the unspecified cells among it (log entries 6, 7, 9
and 22). -/
def Obligations.ResetStateHasTheSpecifiedValues : Prop :=
  State.reset.parserInitial ∧ (∀ k : Byte, (State.reset.pendAt k).valid = false) ∧
  State.reset.evq = [] ∧ State.reset.txq = [] ∧ State.reset.cfg = Config.default ∧ exec .reset State.reset = .next State.reset

/-- R230: `RESET` completes in every state, before the first `RESET` too, and leaves the initial state. The model's own clauses, no rule of
the spec (log entries 9 and 22, DESIGN CHOICE): those on `ready`, `cfg`, `link` and `input`. -/
def Obligations.ResetOperationGivesInitialState : Prop :=
  ∀ s : State, ∃ t, exec .reset s = .next t ∧ t.parserInitial ∧ (∀ k : Byte, (t.pendAt k).valid = false) ∧
    t.evq = [] ∧ t.txq = [] ∧ t.ready = true ∧ t.cfg = s.cfg ∧ t.link = s.link ∧ t.input = s.input

/-- The model's choice for what R231 leaves unspecified (log entries 6 and 7): `RESET` changes no payload byte and no timestamp. -/
def Obligations.ResetOperationKeepsUnspecifiedCells : Prop :=
  ∀ s t : State, exec .reset s = .next t →
    (∀ a, Memory.read t.pbuf a = Memory.read s.pbuf a) ∧ ∀ k : Byte, (t.pendAt k).ts = (s.pendAt k).ts

/-- R67: `SWEEP` is idempotent for a fixed `now`, and `RESET` is idempotent. -/
def Obligations.SweepAndResetAreIdempotent : Prop :=
  ∀ (s : State) (now : Nat), PendFile.wf s.pend →
    andThen (exec (.sweep now) s) (exec (.sweep now)) = exec (.sweep now) s ∧
    andThen (exec .reset s) (exec .reset) = exec .reset s

/-! ### Refusals -/

/-- What the model refuses: the three things of R221 (any operation but `RESET` before the first `RESET`; every reserved transaction;
`RX_BYTE` in a state whose code is `0xA` to `0xF`). The model's own clauses, no rule of the spec: a reserved row keeps its own name before
the first `RESET` (log entry 15, DESIGN CHOICE), and an `RX.invalid_fsm` row is refused in every state, whatever `fsm` is (log entries 2
and 8). -/
def Obligations.ModelRefusesThreeThings : Prop :=
  (∀ (s : State) (b msgId seq : Byte) (payload : List Byte) (now : Nat), s.ready = false →
    (∃ r, exec (.rxByte b now) s = .refused r) ∧ exec (.txFrame msgId seq payload now) s = .refused .beforeReset ∧
    exec (.sweep now) s = .refused .beforeReset) ∧
  (∀ (s : State) (hdr : Byte),
    exec .reservedOp0 s = .refused (.reservedOp 0x0#4) ∧ exec .reservedOp4 s = .refused (.reservedOp 0x4#4) ∧
    exec .reservedOp5 s = .refused (.reservedOp 0x5#4) ∧ exec .reservedOp6 s = .refused (.reservedOp 0x6#4) ∧
    exec .reservedOp7 s = .refused (.reservedOp 0x7#4) ∧ exec .reservedOp8 s = .refused (.reservedOp 0x8#4) ∧
    exec .reservedOp9 s = .refused (.reservedOp 0x9#4) ∧ exec .reservedOpA s = .refused (.reservedOp 0xA#4) ∧
    exec .reservedOpB s = .refused (.reservedOp 0xB#4) ∧ exec .reservedOpC s = .refused (.reservedOp 0xC#4) ∧
    exec .reservedOpD s = .refused (.reservedOp 0xD#4) ∧ exec .reservedOpE s = .refused (.reservedOp 0xE#4) ∧
    exec (.reservedHdr hdr) s = .refused (.reservedHeader hdr)) ∧
  (∀ (s : State) (b : Byte) (now : Nat),
    exec (.rxInvalidFsmA b) s = .refused (.invalidFsm 0xA#4) ∧ exec (.rxInvalidFsmB b) s = .refused (.invalidFsm 0xB#4) ∧
    exec (.rxInvalidFsmC b) s = .refused (.invalidFsm 0xC#4) ∧ exec (.rxInvalidFsmD b) s = .refused (.invalidFsm 0xD#4) ∧
    exec (.rxInvalidFsmE b) s = .refused (.invalidFsm 0xE#4) ∧ exec (.rxInvalidFsmF b) s = .refused (.invalidFsm 0xF#4) ∧
    (9 < s.fsm.code.toNat → exec (.rxByte b now) s = .refused (.invalidFsm s.fsm.code)))

/-- R90 on the wire of the host: whatever follows a header that is none of `10`, `20`, `30`, `F0`, the step is refused (that what follows
is not read is log entry 15). -/
def Obligations.ReservedTransactionsAreRefused : Prop :=
  ∀ (s : State) (hdr : Byte) (rest : List Byte) (txOk : Bool) (more : List HostAct),
    s.input = .op (hdr :: rest) txOk :: more → hdr ∉ [0x10#8, 0x20#8, 0x30#8, 0xF0#8] →
    ∃ r, step s = .refused r ∧
      (r = .reservedOp (hdr >>> 4 |>.setWidth 4) ∧ hdr &&& 0x0F#8 = 0#8 ∨ r = .reservedHeader hdr ∧ hdr &&& 0x0F#8 ≠ 0#8)

/-- R233: before the first `RESET`, every instruction but `RESET` is refused, at every level of the table. -/
def Obligations.OnlyResetRunsBeforeTheFirstReset : Prop :=
  ∀ (s : State) (i : Instr), s.ready = false → i ≠ .reset → ∃ r, exec i s = .refused r

/-- The model's choice (log entry 11, DEDUCED), no rule of the spec: in states that no run reaches, a row that would access an index beyond
the range of R60 stops by name. R61 says that no access of the block is out of range. -/
def Obligations.AccessBeyondPbufStops : Prop :=
  ∀ (s : State) (b id : Byte) (now : Nat), s.ready = true → s.hasRoom 2 = true →
    (128 ≤ s.pCount.toNat → exec (.rxReadPayload b) s = .fault (.pbufOutOfRange s.pCount.toNat)) ∧
    (128 < s.fLength.toNat →
      exec (.rxReadCrcHi b now) s = .fault (.pbufOutOfRange 128) ∧ exec .msgControlCmd s = .fault (.pbufOutOfRange 128) ∧
      exec .msgImu s = .fault (.pbufOutOfRange 128) ∧ exec .msgWheel s = .fault (.pbufOutOfRange 128) ∧
      exec .msgSensor s = .fault (.pbufOutOfRange 128) ∧ exec (.msgUnknown id) s = .fault (.pbufOutOfRange 128) ∧
      exec (.msgAck now) s = .fault (.pbufOutOfRange 128))

/-! ### The step and the codes -/

/-- A step performs the presented transaction: `exec` of the decoded instruction, with that item gone from the input and the link's
answer standing for the step (log entries 1 and 12). -/
def Obligations.StepRunsThePresentedInstruction : Prop :=
  ∀ (s : State) (i : Instr) (bytes : List Byte) (txOk : Bool) (rest : List HostAct),
    s.input = .op bytes txOk :: rest → decode s.cfg (.host bytes) = .ok i →
    step s = exec i { s with input := rest, link := txOk }

/-- R220: with nothing presented, the block is idle. -/
def Obligations.StepIsIdleWithoutOperation : Prop := ∀ s : State, s.input = [] → step s = .next s

/-- R35, R36, R209 in the model's own form (log entry 13): the host takes from the head, and nothing else changes. -/
def Obligations.HostTakesFromTheHead : Prop :=
  (∀ (s : State) (rest : List HostAct) (e : Event) (l : List Event),
    s.ready = true → s.input = .takeEvent :: rest → s.evq = e :: l → step s = .next { s with input := rest, evq := l }) ∧
  (∀ (s : State) (rest : List HostAct) (b : Byte) (l : List Byte),
    s.ready = true → s.input = .takeByte :: rest → s.txq = b :: l → step s = .next { s with input := rest, txq := l })

/-- Words written out from R81, R82, R91 and the vectors of 95_test_vectors.md section 3 decode to what they stand for. -/
def Obligations.WrittenOutWordsDecode : Prop :=
  decode Config.default (.host [0xF0#8]) = .ok .reset ∧
  decode Config.default (.host [0x10#8, 0x55#8, 0xB0#8, 0x04#8, 0x00#8, 0x00#8]) = .ok (.rxByte 0x55#8 1200) ∧
  decode Config.default (.host [0x30#8, 0x70#8, 0x17#8, 0x00#8, 0x00#8]) = .ok (.sweep 6000) ∧
  decode Config.default (.host [0x20#8, 0x24#8, 0x07#8, 0x02#8, 0x00#8, 0x10#8, 0x00#8, 0xE8#8, 0x03#8, 0x00#8, 0x00#8]) =
    .ok (.txFrame 0x24#8 0x07#8 [0x10#8, 0x00#8] 1000) ∧
  decode Config.default (.host [0x40#8]) = .ok .reservedOp4 ∧ decode Config.default (.host [0x11#8]) = .ok (.reservedHdr 0x11#8) ∧
  decode Config.default (.rx 0x0055#16 0) = .ok .rxWaitSync0Sync0 ∧ decode Config.default (.rx 0x01AA#16 0) = .ok .rxWaitSync1Sync1 ∧
  decode Config.default (.rx 0x0402#16 0) = .ok (.rxReadLenHi 0x02#8) ∧
  decode Config.default (.rx 0x09B9#16 1500) = .ok (.rxReadCrcHi 0xB9#8 1500) ∧
  decode Config.default (.rx 0x0C00#16 0) = .ok (.rxInvalidFsmC 0x00#8) ∧
  decode Config.default (.msg 0x24#8 1500) = .ok (.msgAck 1500) ∧ decode Config.default (.msg 0x23#8 0) = .ok (.msgUnknown 0x23#8)

/-- Decoding the code of a well-formed instruction gives the instruction back, with every operand, under every choice of the OPEN
parameters. -/
def Obligations.DecodingAnEncodedInstructionGivesItBack : Prop :=
  ∀ (c : Config) (i : Instr), i.wf c = true → decode c (encode c i) = .ok i

/-- The other direction: what decodes to one of the four operations, to a transition or to a dispatch is that instruction's code, and
the instruction is well formed. (A width of whole bytes: otherwise `now` has padding bits, log entry 5.) -/
def Obligations.EncodingADecodedInstructionGivesItBack : Prop :=
  ∀ (c : Config) (i : Instr), c.tsWidth % 8 = 0 →
    (∀ hdr rest, hdr ∈ [0x10#8, 0x20#8, 0x30#8, 0xF0#8] → decode c (.host (hdr :: rest)) = .ok i →
      i.wf c = true ∧ encode c i = .host (hdr :: rest)) ∧
    (∀ key now, now < c.tsModulus → decode c (.rx key now) = .ok i → i.wf c = true ∧ ∃ n, encode c i = .rx key n) ∧
    (∀ id now, now < c.tsModulus → decode c (.msg id now) = .ok i → i.wf c = true ∧ ∃ n, encode c i = .msg id n)

/-- R91, R120: `RX_BYTE` runs the transition that the parser state and the byte select in the decode table. -/
def Obligations.RxByteRunsTheSelectedRow : Prop :=
  ∀ (s : State) (b : Byte) (now : Nat), ∃ row,
    decode s.cfg (.rx ((s.fsm.code.setWidth 16 <<< 8) ||| b.setWidth 16) now) = .ok row ∧ exec (.rxByte b now) s = exec row s

/-- R120: `now` is read only in `ReadCrcHi`. -/
def Obligations.TimeIsReadOnlyAtFrameCompletion : Prop :=
  ∀ (s : State) (b : Byte) (m n : Nat), s.fsm ≠ .readCrcHi → exec (.rxByte b m) s = exec (.rxByte b n) s

/-! ### The parser's transitions: each is the whole next state, so every other field is unchanged -/

/-- R122. -/
def Obligations.WaitSync0HuntsForTheFirstSyncByte : Prop :=
  ∀ (s : State) (b : Byte) (now : Nat), s.ready = true → s.fsm = .waitSync0 →
    exec (.rxByte b now) s = .next (if b = 0x55#8 then { s with fsm := .waitSync1 } else s) ∧
    exec .rxWaitSync0Sync0 s = .next { s with fsm := .waitSync1 } ∧
    (b ≠ 0x55#8 → exec (.rxWaitSync0Other b) s = .next s)

/-- R123, for both values of `SYNC1_REPLAY`. -/
def Obligations.WaitSync1ExpectsTheSecondSyncByte : Prop :=
  ∀ (s : State) (b : Byte) (now : Nat), s.ready = true → s.fsm = .waitSync1 →
    exec (.rxByte b now) s = .next { s with fsm :=
      if b = 0xAA#8 then .readVersion else if b = 0x55#8 ∧ s.cfg.sync1Replay = true then .waitSync1 else .waitSync0 } ∧
    exec .rxWaitSync1Sync1 s = .next { s with fsm := .readVersion } ∧
    exec .rxWaitSync1Sync0Replay s = .next { s with fsm := if s.cfg.sync1Replay = true then .waitSync1 else .waitSync0 } ∧
    (b ≠ 0xAA#8 → b ≠ 0x55#8 → exec (.rxWaitSync1Other b) s = .next { s with fsm := .waitSync0 })

/-- R124. -/
def Obligations.ReadVersionCapturesTheVersion : Prop :=
  ∀ (s : State) (b : Byte) (now : Nat), s.ready = true → s.fsm = .readVersion →
    exec (.rxByte b now) s = .next { s with fVersion := b, fsm := .readLenLo } ∧
    exec (.rxReadVersion b) s = .next { s with fVersion := b, fsm := .readLenLo }

/-- R125. -/
def Obligations.ReadLenLoCapturesTheLowLengthByte : Prop :=
  ∀ (s : State) (b : Byte) (now : Nat), s.ready = true → s.fsm = .readLenLo →
    exec (.rxByte b now) s = .next { s with fLength := b.setWidth 16, fsm := .readLenHi } ∧
    exec (.rxReadLenLo b) s = .next { s with fLength := b.setWidth 16, fsm := .readLenHi }

/-- R126: the length is completed by an OR; above 128 it is reported and the parser reset, otherwise the payload starts empty. -/
def Obligations.ReadLenHiChecksTheLengthLimit : Prop :=
  ∀ (s : State) (b : Byte) (now : Nat) (n : Half), s.ready = true → s.hasRoom 1 = true → s.fsm = .readLenHi →
    n = s.fLength ||| (b.setWidth 16 <<< 8) →
    exec (.rxByte b now) s = exec (.rxReadLenHi b) s ∧
    (n.toNat ≤ 128 → exec (.rxReadLenHi b) s = .next { s with fLength := n, pCount := 0#8, fsm := .readMsgId }) ∧
    (128 < n.toNat → exec (.rxReadLenHi b) s = .next { s with
      evq := s.evq ++ [.diag .lengthOverflow n 0#16], fsm := .waitSync0, fVersion := 0#8, fLength := 0#16, fMsgId := 0#8, fSeq := 0#8,
      pCount := 0#8, fCrcRx := 0#16 })

/-- R127. -/
def Obligations.ReadMsgIdCapturesTheKind : Prop :=
  ∀ (s : State) (b : Byte) (now : Nat), s.ready = true → s.fsm = .readMsgId →
    exec (.rxByte b now) s = .next { s with fMsgId := b, fsm := .readSeq } ∧
    exec (.rxReadMsgId b) s = .next { s with fMsgId := b, fsm := .readSeq }

/-- R128. -/
def Obligations.ReadSeqChoosesByTheLength : Prop :=
  ∀ (s : State) (b : Byte) (now : Nat), s.ready = true → s.fsm = .readSeq →
    exec (.rxByte b now) s = .next { s with fSeq := b, fsm := if s.fLength = 0#16 then .readCrcLo else .readPayload } ∧
    exec (.rxReadSeq b) s = .next { s with fSeq := b, fsm := if s.fLength = 0#16 then .readCrcLo else .readPayload }

/-- R129: byte `p_count` of the payload is written and no other; the count goes up by one; at the declared length the CRC follows. -/
def Obligations.ReadPayloadAppendsOneByte : Prop :=
  ∀ (s : State) (b : Byte) (now : Nat), s.ready = true → s.fsm = .readPayload → s.pCount.toNat < 128 →
    ∃ t, exec (.rxByte b now) s = .next t ∧ exec (.rxReadPayload b) s = .next t ∧
      Memory.read t.pbuf s.pCount.toNat = b ∧ (∀ a, a ≠ s.pCount.toNat → Memory.read t.pbuf a = Memory.read s.pbuf a) ∧
      t = { s with pbuf := t.pbuf, pCount := s.pCount + 1#8,
                   fsm := if s.pCount.toNat + 1 = s.fLength.toNat then .readCrcLo else .readPayload }

/-- R130. -/
def Obligations.ReadCrcLoCapturesTheLowCrcByte : Prop :=
  ∀ (s : State) (b : Byte) (now : Nat), s.ready = true → s.fsm = .readCrcLo →
    exec (.rxByte b now) s = .next { s with fCrcRx := b.setWidth 16, fsm := .readCrcHi } ∧
    exec (.rxReadCrcLo b) s = .next { s with fCrcRx := b.setWidth 16, fsm := .readCrcHi }

/-- R105, R108: a frame whose received CRC is not the CRC of its span is dropped with `CRC_MISMATCH`, whatever its version; one whose CRC is
right and whose version is not `0x01` with `VERSION_MISMATCH`. The parser is reset and nothing else changes. -/
def Obligations.FrameThatFailsValidationIsDropped : Prop :=
  ∀ (s : State) (b : Byte) (now : Nat) (p : List Byte) (rx : Half), s.ready = true → s.hasRoom 2 = true → s.fsm = .readCrcHi →
    s.fLength.toNat ≤ 128 → p = (List.range s.fLength.toNat).map (Memory.read s.pbuf) →
    rx = s.fCrcRx ||| (b.setWidth 16 <<< 8) →
    let computed := crc16 ([s.fVersion, loByte s.fLength, hiByte s.fLength, s.fMsgId, s.fSeq] ++ p)
    exec (.rxByte b now) s = exec (.rxReadCrcHi b now) s ∧
    (computed ≠ rx → exec (.rxReadCrcHi b now) s = .next { s with
      evq := s.evq ++ [.diag .crcMismatch rx computed], fsm := .waitSync0, fVersion := 0#8, fLength := 0#16, fMsgId := 0#8, fSeq := 0#8,
      pCount := 0#8, fCrcRx := 0#16 }) ∧
    (computed = rx → s.fVersion ≠ 0x01#8 → exec (.rxReadCrcHi b now) s = .next { s with
      evq := s.evq ++ [.diag .versionMismatch (s.fVersion.setWidth 16) 0x0001#16], fsm := .waitSync0, fVersion := 0#8, fLength := 0#16,
      fMsgId := 0#8, fSeq := 0#8, pCount := 0#8, fCrcRx := 0#16 })

/-- R131 on `Ok`: the frame is dispatched by the row of its msg_id, then the parser is reset; an Ack's correlation uses the `now` of the
byte that completes the frame. -/
def Obligations.FrameThatPassesValidationIsDispatched : Prop :=
  ∀ (s : State) (b : Byte) (now : Nat) (rx : Half), s.ready = true → s.hasRoom 2 = true → s.fsm = .readCrcHi →
    s.fLength.toNat ≤ 128 → rx = s.fCrcRx ||| (b.setWidth 16 <<< 8) → s.fVersion = 0x01#8 →
    crc16 ([s.fVersion, loByte s.fLength, hiByte s.fLength, s.fMsgId, s.fSeq] ++
      (List.range s.fLength.toNat).map (Memory.read s.pbuf)) = rx →
    ∃ row t, decode s.cfg (.msg s.fMsgId now) = .ok row ∧ exec row { s with fCrcRx := rx } = .next t ∧
      exec (.rxByte b now) s = .next t.parserReset ∧ exec (.rxReadCrcHi b now) s = .next t.parserReset

/-! ### Dispatch and the correlator -/

/-- R107, R89: every kind but the Ack gives `EV_FRAME` and nothing else. -/
def Obligations.DispatchEmitsTheFrame : Prop :=
  ∀ (s : State) (id : Byte), s.ready = true → s.hasRoom 1 = true → s.fLength.toNat ≤ 128 →
    let t := { s with evq := s.evq ++ [.frame s.fVersion s.fMsgId s.fSeq s.fLength
      ((List.range s.fLength.toNat).map (Memory.read s.pbuf))] }
    exec .msgControlCmd s = .next t ∧ exec .msgImu s = .next t ∧ exec .msgWheel s = .next t ∧ exec .msgSensor s = .next t ∧
    exec (.msgUnknown id) s = .next t

/-- R150, R155, R156, R159, R151: a matched Ack gives its `EV_FRAME`, then `EV_RTT` with the time since the send, and clears its entry and
no other; the parser fields are as they were. -/
def Obligations.MatchedAckReportsItsRoundTripTime : Prop :=
  ∀ (s : State) (now r : Nat), s.ready = true → s.hasRoom 2 = true → 2 ≤ s.fLength.toNat → s.fLength.toNat ≤ 128 →
    (s.pendAt s.fSeq).valid = true → elapsesTo s.cfg (s.pendAt s.fSeq).ts r now →
    (∀ horizon, s.cfg.ackExpiry = some horizon → r ≤ horizon) →
    ∃ t, exec (.msgAck now) s = .next t ∧
      t.evq = s.evq ++
        [.frame s.fVersion s.fMsgId s.fSeq s.fLength ((List.range s.fLength.toNat).map (Memory.read s.pbuf)),
         .rtt s.fSeq r (Memory.read s.pbuf 0) (Memory.read s.pbuf 1)
          (if 3 ≤ s.fLength.toNat then Memory.read s.pbuf 2 else 0x00#8)] ∧
      (t.pendAt s.fSeq).valid = false ∧ (∀ k, k ≠ s.fSeq → t.pendAt k = s.pendAt k) ∧
      s.sameParser t ∧ t.txq = s.txq ∧ s.sameModel t

/-- R157: an Ack that finds an expired entry clears it and gives no `EV_RTT`. -/
def Obligations.ExpiredAckRemovesItsEntrySilently : Prop :=
  ∀ (s : State) (now r horizon : Nat), s.ready = true → s.hasRoom 2 = true → 2 ≤ s.fLength.toNat → s.fLength.toNat ≤ 128 →
    (s.pendAt s.fSeq).valid = true → elapsesTo s.cfg (s.pendAt s.fSeq).ts r now → s.cfg.ackExpiry = some horizon → horizon < r →
    ∃ t, exec (.msgAck now) s = .next t ∧
      t.evq = s.evq ++
        [.frame s.fVersion s.fMsgId s.fSeq s.fLength ((List.range s.fLength.toNat).map (Memory.read s.pbuf))] ∧
      (t.pendAt s.fSeq).valid = false ∧ (∀ k, k ≠ s.fSeq → t.pendAt k = s.pendAt k) ∧
      s.sameParser t ∧ t.txq = s.txq ∧ s.sameModel t

/-- R152, R158: a short Ack, and an Ack whose entry is not pending, give their `EV_FRAME` and change nothing else. -/
def Obligations.ShortOrUnmatchedAckOnlyEmitsTheFrame : Prop :=
  ∀ (s : State) (now : Nat), s.ready = true → s.hasRoom 2 = true → s.fLength.toNat ≤ 128 →
    (s.fLength.toNat < 2 ∨ (s.pendAt s.fSeq).valid = false) →
    exec (.msgAck now) s = .next { s with evq := s.evq ++ [.frame s.fVersion s.fMsgId s.fSeq s.fLength
      ((List.range s.fLength.toNat).map (Memory.read s.pbuf))] }

/-- R164: `expired` is false without a horizon, and otherwise says that more than the horizon has elapsed. -/
def Obligations.ExpiryComparesTheElapsedTime : Prop :=
  ∀ (c : Config) (ts now : Nat),
    (c.ackExpiry = none → expired c ts now = false) ∧
    (∀ horizon, c.ackExpiry = some horizon →
      ∃ r, elapsesTo c ts r now ∧ (∀ r', elapsesTo c ts r' now → r' = r) ∧ (expired c ts now = true ↔ horizon < r))

/-- R165: `SWEEP` clears every pending entry that has expired, keeps every other, and changes nothing else. -/
def Obligations.SweepRemovesExactlyTheExpiredEntries : Prop :=
  ∀ (s : State) (now : Nat), s.ready = true →
    ∃ t, exec (.sweep now) s = .next t ∧
      (∀ k : Byte, t.pendAt k = if (s.pendAt k).valid = true ∧ expired s.cfg (s.pendAt k).ts now = true
        then ⟨false, (s.pendAt k).ts⟩ else s.pendAt k) ∧
      t = { s with pend := t.pend }

/-- R165, R241: with `ACK_EXPIRY = none`, `SWEEP` changes nothing. -/
def Obligations.SweepWithoutHorizonChangesNothing : Prop :=
  ∀ (s : State) (now : Nat), s.ready = true → s.cfg.ackExpiry = none → exec (.sweep now) s = .next s

/-! ### Transmit -/

/-- R180, R160, R163: a send that the link accepts appends the frame to `txq` and records the send, whatever the kind and the payload;
nothing else changes. -/
def Obligations.AcceptedSendAppendsAndRecords : Prop :=
  ∀ (s : State) (msgId seq : Byte) (payload : List Byte) (now : Nat), s.ready = true → s.hasRoom 1 = true → payload.length ≤ 128 →
    s.link = true →
    ∃ t, exec (.txFrame msgId seq payload now) s = .next t ∧ t.txq = s.txq ++ encodeFrame msgId seq payload ∧
      t.pendAt seq = ⟨true, now % 2 ^ s.cfg.tsWidth⟩ ∧ (∀ k, k ≠ seq → t.pendAt k = s.pendAt k) ∧
      t = { s with txq := t.txq, pend := t.pend }

/-- R182: a payload above 128 bytes is rejected whole. -/
def Obligations.OversizePayloadIsRejected : Prop :=
  ∀ (s : State) (msgId seq : Byte) (payload : List Byte) (now : Nat), s.ready = true → s.hasRoom 1 = true →
    128 < payload.length → payload.length < 65536 →
    ∃ plen : Half, plen.toNat = payload.length ∧
      exec (.txFrame msgId seq payload now) s = .next { s with evq := s.evq ++ [.diag .txLengthReject plen 0x0080#16] }

/-- R183, R162: a failed write keeps the frame's bytes on `txq`, emits `TX_WRITE_FAIL` and records nothing. -/
def Obligations.FailedWriteRecordsNothing : Prop :=
  ∀ (s : State) (msgId seq : Byte) (payload : List Byte) (now : Nat), s.ready = true → s.hasRoom 1 = true → payload.length ≤ 128 →
    s.link = false →
    exec (.txFrame msgId seq payload now) s = .next { s with
      txq := s.txq ++ encodeFrame msgId seq payload,
      evq := s.evq ++ [.diag .txWriteFail (seq.setWidth 16) (msgId.setWidth 16)] }

/-- R181, R82, R84: the layout of an encoded frame. -/
def Obligations.EncodedFrameHasTheWireLayout : Prop :=
  ∀ (msgId seq : Byte) (p : List Byte), p.length ≤ 128 →
    ∃ lo crcLo crcHi : Byte, lo.toNat = p.length ∧ le16 crcLo crcHi = crc16 ([0x01#8, lo, 0x00#8, msgId, seq] ++ p) ∧
      encodeFrame msgId seq p = [0x55#8, 0xAA#8, 0x01#8, lo, 0x00#8, msgId, seq] ++ p ++ [crcLo, crcHi] ∧
      (encodeFrame msgId seq p).length = 9 + p.length

/-- R161, R160: two accepted sends with one seq leave one entry, with the second send's time. -/
def Obligations.SecondSendOverwritesTheFirst : Prop :=
  ∀ (s : State) (m₁ m₂ seq : Byte) (p₁ p₂ : List Byte) (n₁ n₂ : Nat), s.receives → s.link = true →
    p₁.length ≤ 128 → p₂.length ≤ 128 →
    ∃ t, andThen (exec (.txFrame m₁ seq p₁ n₁) s) (exec (.txFrame m₂ seq p₂ n₂)) = .next t ∧
      t.pendAt seq = ⟨true, n₂ % 2 ^ s.cfg.tsWidth⟩ ∧ (∀ k, k ≠ seq → t.pendAt k = s.pendAt k) ∧
      t.txq = s.txq ++ encodeFrame m₁ seq p₁ ++ encodeFrame m₂ seq p₂ ∧ t = { s with txq := t.txq, pend := t.pend }

/-! ### The CRC -/

/-- The vectors CRC-1 to CRC-4, CRC-8, CRC-10 and CRC-11 of 95_test_vectors.md section 2.1. -/
def Obligations.CrcGivesTheCheckValues : Prop :=
  crc16 [] = 0xFFFF#16 ∧ crc16 [0x00#8] = 0xE1F0#16 ∧ crc16 [0x01#8] = 0xF1D1#16 ∧ crc16 [0x55#8] = 0xEBA0#16 ∧
  crc16 [0xFF#8, 0xFF#8] = 0x0000#16 ∧
  crc16 [0x31#8, 0x32#8, 0x33#8, 0x34#8, 0x35#8, 0x36#8, 0x37#8, 0x38#8, 0x39#8] = 0x29B1#16 ∧
  crc16 [0x01#8, 0x02#8, 0x00#8, 0x24#8, 0x07#8, 0x10#8, 0x00#8] = 0xB9B3#16

/-- R109: a corruption of one byte of a span changes its CRC. -/
def Obligations.OneCorruptedByteChangesTheCrc : Prop :=
  ∀ (before after : List Byte) (x y : Byte), x ≠ y → crc16 (before ++ x :: after) ≠ crc16 (before ++ y :: after)

/-- R102: a register that starts at `0xFFFF` in `ReadVersion` and folds each byte as it arrives, whatever the frame's fields and however
long its payload, holds the CRC of the span when the parser comes to `ReadCrcLo`: the bytes received are the span of R103. -/
def Obligations.IncrementalCrcAgreesWithTheSpan : Prop :=
  ∀ (s : State) (xs : List (Byte × Nat)) (version lo hi msgId seq : Byte) (p : List Byte), s.receives → s.fsm = .readVersion →
    xs.map Prod.fst = [version, lo, hi, msgId, seq] ++ p → (le16 lo hi).toNat = p.length → p.length ≤ 128 →
    ∃ t, rxStream xs s = .next t ∧ t.fsm = .readCrcLo ∧ t.payload = some p ∧
      (xs.map Prod.fst).foldl crcStep 0xFFFF#16 = crc16 (t.span p)

/-! ### Whole-machine rules -/

/-- The invariant holds in the state after `RESET`. -/
def Obligations.ResetStateMeetsTheInvariant : Prop := State.reset.Inv

/-- Every step keeps the invariant: R22, R25, R27, R28, R29, the canonical form of both address spaces (R60), the width of timestamps (R32),
what events may carry (R86 to R88), and the depth of a finite channel (R242). -/
def Obligations.EveryStepKeepsTheInvariant : Prop := ∀ s t : State, s.Inv → step s = .next t → t.Inv

/-- R61: no access is out of range in a state that meets the invariant. -/
def Obligations.NoAccessIsOutOfRange : Prop := ∀ (s : State) (index : Nat), s.Inv → step s ≠ .fault (.pbufOutOfRange index)

/-- R200: no operation aborts: in a state that meets the invariant, with the unbounded channel, each of the four operations completes. -/
def Obligations.EveryOperationCompletes : Prop :=
  ∀ (s : State) (b msgId seq : Byte) (payload : List Byte) (now : Nat), s.Inv → s.receives →
    (∃ t, exec (.rxByte b now) s = .next t) ∧ (∃ t, exec (.txFrame msgId seq payload now) s = .next t) ∧
    (∃ t, exec (.sweep now) s = .next t) ∧ (∃ t, exec .reset s = .next t)

/-- R231, R31: the parameters do not change. -/
def Obligations.ParametersNeverChange : Prop := ∀ s t : State, step s = .next t → t.cfg = s.cfg

/-- R23: how `fsm` moves. -/
def Obligations.FsmMovesAsTheTransitionsSay : Prop :=
  (∀ (s t : State) (b : Byte) (now : Nat), s.fsm.legal = true → exec (.rxByte b now) s = .next t →
    (t.fsm = s.fsm ∨ t.fsm.code.toNat = s.fsm.code.toNat + 1 ∨
      (s.fsm = .readSeq ∧ s.fLength = 0#16 ∧ t.fsm = .readCrcLo) ∨
      ((s.fsm = .waitSync1 ∨ s.fsm = .readLenHi ∨ s.fsm = .readCrcHi) ∧ t.fsm = .waitSync0)) ∧
    (s.fsm = .readCrcHi → t.fsm = .waitSync0)) ∧
  (∀ (s t : State) (i : Instr), (∃ m q p n, i = .txFrame m q p n) ∨ (∃ n, i = .sweep n) → exec i s = .next t → t.fsm = s.fsm)

/-- R21, R72: `TX_FRAME` and `SWEEP` leave the parser as it was. -/
def Obligations.TransmitAndSweepLeaveTheParser : Prop :=
  ∀ (s t : State) (msgId seq : Byte) (payload : List Byte) (now : Nat),
    exec (.txFrame msgId seq payload now) s = .next t ∨ exec (.sweep now) s = .next t → s.sameParser t ∧ s.sameModel t

/-- R72: no interleaving can be seen in the parser: what `RX_BYTE` does to it depends on the parser alone, not on `PEND`, `evq` or `txq`. -/
def Obligations.ParserDependsOnlyOnItself : Prop :=
  ∀ (s s' t t' : State) (b : Byte) (m n : Nat), s.sameParser s' → s.cfg.sync1Replay = s'.cfg.sync1Replay →
    exec (.rxByte b m) s = .next t → exec (.rxByte b n) s' = .next t' → t.sameParser t'

/-- R210: which events an operation may emit, and in which order. -/
def Obligations.EventsOfAnOperationAreInTheFixedOrder : Prop :=
  (∀ (s t : State) (b : Byte) (now : Nat), exec (.rxByte b now) s = .next t → ∃ l, t.evq = s.evq ++ l ∧
    (l = [] ∧ s.fsm ≠ .readCrcHi ∨
     s.fsm = .readLenHi ∧ (∃ x y, l = [.diag .lengthOverflow x y]) ∨
     s.fsm = .readCrcHi ∧
       ((∃ v m q n p, l = [.frame v m q n p]) ∨ (∃ v m q n p r c u w, l = [.frame v m q n p, .rtt q r c u w]) ∨
        (∃ x y, l = [.diag .crcMismatch x y]) ∨ (∃ x y, l = [.diag .versionMismatch x y])))) ∧
  (∀ (s t : State) (msgId seq : Byte) (payload : List Byte) (now : Nat), exec (.txFrame msgId seq payload now) s = .next t →
    ∃ l, t.evq = s.evq ++ l ∧ (l = [] ∨ (∃ x y, l = [.diag .txLengthReject x y]) ∨ ∃ x y, l = [.diag .txWriteFail x y])) ∧
  (∀ (s t : State) (now : Nat), exec (.sweep now) s = .next t → t.evq = s.evq) ∧
  (∀ s t : State, exec .reset s = .next t → t.evq = [])

/-- R36: only `TX_FRAME` appends to `txq`; `RESET` empties it; every other instruction leaves it. -/
def Obligations.OnlyTxFrameAppendsToTheTransmitStream : Prop :=
  ∀ (s t : State) (i : Instr), exec i s = .next t →
    t.txq = s.txq ∨ (i = .reset ∧ t.txq = []) ∨
      ∃ msgId seq payload now, i = .txFrame msgId seq payload now ∧ t.txq = s.txq ++ encodeFrame msgId seq payload

/-- R34: the ways in which an entry of the timestamp register file changes. That `RESET` keeps the timestamp of the entry it clears is the
model's choice (log entry 7, DESIGN CHOICE): R231 leaves `pend_ts` unspecified. -/
def Obligations.PendEntriesChangeOnlyInFourWays : Prop :=
  ∀ (s t : State) (i : Instr) (k : Byte), exec i s = .next t → t.pendAt k ≠ s.pendAt k →
    (∃ m p now, i = .txFrame m k p now ∧ t.pendAt k = ⟨true, now % 2 ^ s.cfg.tsWidth⟩) ∨
    ((s.pendAt k).valid = true ∧ t.pendAt k = ⟨false, (s.pendAt k).ts⟩ ∧
      (i = .reset ∨
       (∃ now, i = .sweep now ∧ expired s.cfg (s.pendAt k).ts now = true) ∨
       (∃ now, i = .msgAck now ∧ s.fSeq = k) ∨
       (∃ b now, (i = .rxByte b now ∧ s.fsm = .readCrcHi ∨ i = .rxReadCrcHi b now) ∧ s.fMsgId = 0x24#8 ∧ s.fSeq = k)))

/-- The model's reading of R242 and I14 (log entry 10): an operation that could emit an event is held off while a finite channel
lacks room, and no other operation is: `RX_BYTE` in the eight states that cannot emit, `SWEEP` and `RESET` complete however full it is. -/
def Obligations.FullEventChannelHoldsOperationsOff : Prop :=
  ∀ (s : State) (b msgId seq : Byte) (payload : List Byte) (now : Nat), s.ready = true →
    (s.hasRoom 1 = false → exec (.txFrame msgId seq payload now) s = .fault .evqFull) ∧
    (s.hasRoom 1 = false → s.fsm = .readLenHi → exec (.rxByte b now) s = .fault .evqFull) ∧
    (s.hasRoom 2 = false → s.fsm = .readCrcHi → exec (.rxByte b now) s = .fault .evqFull) ∧
    (s.fsm.legal = true → s.fsm ≠ .readLenHi → s.fsm ≠ .readCrcHi → (s.fsm = .readPayload → s.pCount.toNat < 128) →
      ∃ t, exec (.rxByte b now) s = .next t) ∧
    (∃ t, exec (.sweep now) s = .next t) ∧ (∃ t, exec .reset s = .next t)

/-! ### The received stream -/

/-- R132: how the bytes are grouped into chunks changes nothing, and an empty chunk is no operation; when the bytes of a frame are
delivered changes nothing either, provided the `now` of its last byte is the same. -/
def Obligations.ChunkingDoesNotChangeTheResult : Prop :=
  (∀ (s : State) (chunks : List (List (Byte × Nat))),
    chunks.foldl (fun r chunk => andThen r (rxStream chunk)) (.next s) = rxStream chunks.flatten s) ∧
  (∀ s : State, rxStream [] s = .next s) ∧
  (∀ (s : State) (xs ys : List (Byte × Nat)) (n : Nat), s.receives → s.fsm = .waitSync0 → n ≤ 128 →
    frameShaped n (xs.map Prod.fst) → ys.map Prod.fst = xs.map Prod.fst → ys.getLast?.map Prod.snd = xs.getLast?.map Prod.snd →
    rxStream ys s = rxStream xs s)

/-- R134: a frame is consumed whole, with exactly one of the listed outcomes; a header whose length is above 128 is consumed in five
bytes, and leaves `PEND`, `txq` and the model's own fields as they were. The timestamps of the bytes are arbitrary. -/
def Obligations.FrameIsConsumedWhole : Prop :=
  (∀ (s : State) (xs : List (Byte × Nat)) (n : Nat), s.receives → s.fsm = .waitSync0 → n ≤ 128 → frameShaped n (xs.map Prod.fst) →
    ∃ t l, rxStream xs s = .next t ∧ t.parserInitial ∧ t.evq = s.evq ++ l ∧ t.txq = s.txq ∧ s.sameModel t ∧
      ((∃ v m q len p, l = [.frame v m q len p]) ∨ (∃ q len p r c u w, l = [.frame 0x01#8 0x24#8 q len p, .rtt q r c u w]) ∨
       (∃ x y, l = [.diag .crcMismatch x y]) ∨ (∃ x y, l = [.diag .versionMismatch x y]))) ∧
  (∀ (s : State) (xs : List (Byte × Nat)) (version lo hi : Byte), s.receives → s.fsm = .waitSync0 →
    xs.map Prod.fst = [0x55#8, 0xAA#8, version, lo, hi] → 128 < (le16 lo hi).toNat →
    ∃ t, rxStream xs s = .next t ∧ t.parserInitial ∧ t.evq = s.evq ++ [.diag .lengthOverflow (le16 lo hi) 0#16] ∧
      t.pend = s.pend ∧ t.txq = s.txq ∧ s.sameModel t)

/-- R184: a parser in `WaitSync0` that is fed an encoded frame emits exactly that frame, no diagnostic, and for an Ack of at least two
bytes possibly one `EV_RTT`; it ends in `WaitSync0`. The bytes may arrive at any times. -/
def Obligations.EncodedFrameIsReceivedAsSent : Prop :=
  ∀ (s : State) (msgId seq : Byte) (p : List Byte) (xs : List (Byte × Nat)), s.receives → s.fsm = .waitSync0 → p.length ≤ 128 →
    xs.map Prod.fst = encodeFrame msgId seq p →
    ∃ t l, rxStream xs s = .next t ∧ t.parserInitial ∧ t.txq = s.txq ∧ s.sameModel t ∧
      t.evq = s.evq ++ .frame 0x01#8 msgId seq (BitVec.ofNat 16 p.length) p :: l ∧
      (l = [] ∨ (msgId = 0x24#8 ∧ 2 ≤ p.length ∧ (s.pendAt seq).valid = true ∧ ∃ r c u w, l = [.rtt seq r c u w])) ∧
      (msgId ≠ 0x24#8 → t.pend = s.pend) ∧ ∀ k, k ≠ seq → t.pendAt k = s.pendAt k

/-- R135(a): a frame with one corrupted payload or CRC byte is dropped with one `CRC_MISMATCH`, and the well-formed frame right after it is
dispatched. `i` counts the bytes of the first frame's payload and CRC. All bytes have one `now`, and the second frame is no Ack: for an
Ack, `EncodedFrameIsReceivedAsSent` speaks from the state that the first frame leaves. -/
def Obligations.CorruptedFrameIsDroppedAndTheNextReceived : Prop :=
  ∀ (s : State) (m₁ q₁ m₂ q₂ : Byte) (p₁ p₂ : List Byte) (now : Nat) (i : Nat) (x : Byte), s.receives → s.fsm = .waitSync0 →
    p₁.length ≤ 128 → p₂.length ≤ 128 → i < p₁.length + 2 → (encodeFrame m₁ q₁ p₁)[7 + i]? ≠ some x → m₂ ≠ 0x24#8 →
    ∃ t a b, rxChunk ((encodeFrame m₁ q₁ p₁).set (7 + i) x ++ encodeFrame m₂ q₂ p₂) now s = .next t ∧ t.parserInitial ∧
      t.evq = s.evq ++ [.diag .crcMismatch a b, .frame 0x01#8 m₂ q₂ (BitVec.ofNat 16 p₂.length) p₂] ∧
      t.pend = s.pend ∧ t.txq = s.txq ∧ s.sameModel t

/-- R237, C1: in `WaitSync1` the first byte of a frame loses the sync marker, unless `SYNC1_REPLAY` re-scans it. -/
def Obligations.StraySyncByteLosesTheMarker : Prop :=
  ∀ (s : State) (now : Nat), s.ready = true → s.fsm = .waitSync1 →
    rxChunk [0x55#8, 0xAA#8] now s = .next { s with fsm := if s.cfg.sync1Replay = true then .readVersion else .waitSync0 }

/-! ### Codes -/

/-- R22, R85, R88: the numeric codes of the parser states, the event kinds and the diagnostics. -/
def Obligations.CodesAreTheSpecifiedNumbers : Prop :=
  ([FsmState.waitSync0, .waitSync1, .readVersion, .readLenLo, .readLenHi, .readMsgId, .readSeq, .readPayload, .readCrcLo,
    .readCrcHi].map (fun f => f.code.toNat)) = List.range 10 ∧
  (∀ f g : FsmState, f.code = g.code → f = g) ∧
  [DiagCode.lengthOverflow, .crcMismatch, .versionMismatch, .txLengthReject, .txWriteFail].map (fun d => d.byte.toNat) = [1, 2, 3, 4, 5] ∧
  (∀ e : Event, e.kind ≠ 0#2) ∧ (∀ v m q n p, (Event.frame v m q n p).kind = 1#2) ∧ (∀ q r c u w, (Event.rtt q r c u w).kind = 2#2) ∧
  ∀ d x y, (Event.diag d x y).kind = 3#2
end

