-- ==== Sys2Proof/Laws/State.lean ====
section
/-! SUPPORT. One lemma for each field and each named update of `State`, true by rfl, so that no proof unfolds a record update. -/
namespace Sys2Proof.Machine

@[simp] theorem State.setFsm_cfg (s : State) (f : FsmState) : (s.setFsm f).cfg = s.cfg := rfl
@[simp] theorem State.setFsm_ready (s : State) (f : FsmState) : (s.setFsm f).ready = s.ready := rfl
@[simp] theorem State.setFsm_fsm (s : State) (f : FsmState) : (s.setFsm f).fsm = f := rfl
@[simp] theorem State.setFsm_fVersion (s : State) (f : FsmState) : (s.setFsm f).fVersion = s.fVersion := rfl
@[simp] theorem State.setFsm_fLength (s : State) (f : FsmState) : (s.setFsm f).fLength = s.fLength := rfl
@[simp] theorem State.setFsm_fMsgId (s : State) (f : FsmState) : (s.setFsm f).fMsgId = s.fMsgId := rfl
@[simp] theorem State.setFsm_fSeq (s : State) (f : FsmState) : (s.setFsm f).fSeq = s.fSeq := rfl
@[simp] theorem State.setFsm_pCount (s : State) (f : FsmState) : (s.setFsm f).pCount = s.pCount := rfl
@[simp] theorem State.setFsm_pbuf (s : State) (f : FsmState) : (s.setFsm f).pbuf = s.pbuf := rfl
@[simp] theorem State.setFsm_fCrcRx (s : State) (f : FsmState) : (s.setFsm f).fCrcRx = s.fCrcRx := rfl
@[simp] theorem State.setFsm_pend (s : State) (f : FsmState) : (s.setFsm f).pend = s.pend := rfl
@[simp] theorem State.setFsm_evq (s : State) (f : FsmState) : (s.setFsm f).evq = s.evq := rfl
@[simp] theorem State.setFsm_txq (s : State) (f : FsmState) : (s.setFsm f).txq = s.txq := rfl
@[simp] theorem State.setFsm_link (s : State) (f : FsmState) : (s.setFsm f).link = s.link := rfl
@[simp] theorem State.setFsm_input (s : State) (f : FsmState) : (s.setFsm f).input = s.input := rfl

@[simp] theorem State.setVersion_cfg (s : State) (v : Byte) : (s.setVersion v).cfg = s.cfg := rfl
@[simp] theorem State.setVersion_ready (s : State) (v : Byte) : (s.setVersion v).ready = s.ready := rfl
@[simp] theorem State.setVersion_fsm (s : State) (v : Byte) : (s.setVersion v).fsm = s.fsm := rfl
@[simp] theorem State.setVersion_fVersion (s : State) (v : Byte) : (s.setVersion v).fVersion = v := rfl
@[simp] theorem State.setVersion_fLength (s : State) (v : Byte) : (s.setVersion v).fLength = s.fLength := rfl
@[simp] theorem State.setVersion_fMsgId (s : State) (v : Byte) : (s.setVersion v).fMsgId = s.fMsgId := rfl
@[simp] theorem State.setVersion_fSeq (s : State) (v : Byte) : (s.setVersion v).fSeq = s.fSeq := rfl
@[simp] theorem State.setVersion_pCount (s : State) (v : Byte) : (s.setVersion v).pCount = s.pCount := rfl
@[simp] theorem State.setVersion_pbuf (s : State) (v : Byte) : (s.setVersion v).pbuf = s.pbuf := rfl
@[simp] theorem State.setVersion_fCrcRx (s : State) (v : Byte) : (s.setVersion v).fCrcRx = s.fCrcRx := rfl
@[simp] theorem State.setVersion_pend (s : State) (v : Byte) : (s.setVersion v).pend = s.pend := rfl
@[simp] theorem State.setVersion_evq (s : State) (v : Byte) : (s.setVersion v).evq = s.evq := rfl
@[simp] theorem State.setVersion_txq (s : State) (v : Byte) : (s.setVersion v).txq = s.txq := rfl
@[simp] theorem State.setVersion_link (s : State) (v : Byte) : (s.setVersion v).link = s.link := rfl
@[simp] theorem State.setVersion_input (s : State) (v : Byte) : (s.setVersion v).input = s.input := rfl

@[simp] theorem State.setLength_cfg (s : State) (v : Half) : (s.setLength v).cfg = s.cfg := rfl
@[simp] theorem State.setLength_ready (s : State) (v : Half) : (s.setLength v).ready = s.ready := rfl
@[simp] theorem State.setLength_fsm (s : State) (v : Half) : (s.setLength v).fsm = s.fsm := rfl
@[simp] theorem State.setLength_fVersion (s : State) (v : Half) : (s.setLength v).fVersion = s.fVersion := rfl
@[simp] theorem State.setLength_fLength (s : State) (v : Half) : (s.setLength v).fLength = v := rfl
@[simp] theorem State.setLength_fMsgId (s : State) (v : Half) : (s.setLength v).fMsgId = s.fMsgId := rfl
@[simp] theorem State.setLength_fSeq (s : State) (v : Half) : (s.setLength v).fSeq = s.fSeq := rfl
@[simp] theorem State.setLength_pCount (s : State) (v : Half) : (s.setLength v).pCount = s.pCount := rfl
@[simp] theorem State.setLength_pbuf (s : State) (v : Half) : (s.setLength v).pbuf = s.pbuf := rfl
@[simp] theorem State.setLength_fCrcRx (s : State) (v : Half) : (s.setLength v).fCrcRx = s.fCrcRx := rfl
@[simp] theorem State.setLength_pend (s : State) (v : Half) : (s.setLength v).pend = s.pend := rfl
@[simp] theorem State.setLength_evq (s : State) (v : Half) : (s.setLength v).evq = s.evq := rfl
@[simp] theorem State.setLength_txq (s : State) (v : Half) : (s.setLength v).txq = s.txq := rfl
@[simp] theorem State.setLength_link (s : State) (v : Half) : (s.setLength v).link = s.link := rfl
@[simp] theorem State.setLength_input (s : State) (v : Half) : (s.setLength v).input = s.input := rfl

@[simp] theorem State.setMsgId_cfg (s : State) (v : Byte) : (s.setMsgId v).cfg = s.cfg := rfl
@[simp] theorem State.setMsgId_ready (s : State) (v : Byte) : (s.setMsgId v).ready = s.ready := rfl
@[simp] theorem State.setMsgId_fsm (s : State) (v : Byte) : (s.setMsgId v).fsm = s.fsm := rfl
@[simp] theorem State.setMsgId_fVersion (s : State) (v : Byte) : (s.setMsgId v).fVersion = s.fVersion := rfl
@[simp] theorem State.setMsgId_fLength (s : State) (v : Byte) : (s.setMsgId v).fLength = s.fLength := rfl
@[simp] theorem State.setMsgId_fMsgId (s : State) (v : Byte) : (s.setMsgId v).fMsgId = v := rfl
@[simp] theorem State.setMsgId_fSeq (s : State) (v : Byte) : (s.setMsgId v).fSeq = s.fSeq := rfl
@[simp] theorem State.setMsgId_pCount (s : State) (v : Byte) : (s.setMsgId v).pCount = s.pCount := rfl
@[simp] theorem State.setMsgId_pbuf (s : State) (v : Byte) : (s.setMsgId v).pbuf = s.pbuf := rfl
@[simp] theorem State.setMsgId_fCrcRx (s : State) (v : Byte) : (s.setMsgId v).fCrcRx = s.fCrcRx := rfl
@[simp] theorem State.setMsgId_pend (s : State) (v : Byte) : (s.setMsgId v).pend = s.pend := rfl
@[simp] theorem State.setMsgId_evq (s : State) (v : Byte) : (s.setMsgId v).evq = s.evq := rfl
@[simp] theorem State.setMsgId_txq (s : State) (v : Byte) : (s.setMsgId v).txq = s.txq := rfl
@[simp] theorem State.setMsgId_link (s : State) (v : Byte) : (s.setMsgId v).link = s.link := rfl
@[simp] theorem State.setMsgId_input (s : State) (v : Byte) : (s.setMsgId v).input = s.input := rfl

@[simp] theorem State.setSeq_cfg (s : State) (v : Byte) : (s.setSeq v).cfg = s.cfg := rfl
@[simp] theorem State.setSeq_ready (s : State) (v : Byte) : (s.setSeq v).ready = s.ready := rfl
@[simp] theorem State.setSeq_fsm (s : State) (v : Byte) : (s.setSeq v).fsm = s.fsm := rfl
@[simp] theorem State.setSeq_fVersion (s : State) (v : Byte) : (s.setSeq v).fVersion = s.fVersion := rfl
@[simp] theorem State.setSeq_fLength (s : State) (v : Byte) : (s.setSeq v).fLength = s.fLength := rfl
@[simp] theorem State.setSeq_fMsgId (s : State) (v : Byte) : (s.setSeq v).fMsgId = s.fMsgId := rfl
@[simp] theorem State.setSeq_fSeq (s : State) (v : Byte) : (s.setSeq v).fSeq = v := rfl
@[simp] theorem State.setSeq_pCount (s : State) (v : Byte) : (s.setSeq v).pCount = s.pCount := rfl
@[simp] theorem State.setSeq_pbuf (s : State) (v : Byte) : (s.setSeq v).pbuf = s.pbuf := rfl
@[simp] theorem State.setSeq_fCrcRx (s : State) (v : Byte) : (s.setSeq v).fCrcRx = s.fCrcRx := rfl
@[simp] theorem State.setSeq_pend (s : State) (v : Byte) : (s.setSeq v).pend = s.pend := rfl
@[simp] theorem State.setSeq_evq (s : State) (v : Byte) : (s.setSeq v).evq = s.evq := rfl
@[simp] theorem State.setSeq_txq (s : State) (v : Byte) : (s.setSeq v).txq = s.txq := rfl
@[simp] theorem State.setSeq_link (s : State) (v : Byte) : (s.setSeq v).link = s.link := rfl
@[simp] theorem State.setSeq_input (s : State) (v : Byte) : (s.setSeq v).input = s.input := rfl

@[simp] theorem State.setCount_cfg (s : State) (v : Byte) : (s.setCount v).cfg = s.cfg := rfl
@[simp] theorem State.setCount_ready (s : State) (v : Byte) : (s.setCount v).ready = s.ready := rfl
@[simp] theorem State.setCount_fsm (s : State) (v : Byte) : (s.setCount v).fsm = s.fsm := rfl
@[simp] theorem State.setCount_fVersion (s : State) (v : Byte) : (s.setCount v).fVersion = s.fVersion := rfl
@[simp] theorem State.setCount_fLength (s : State) (v : Byte) : (s.setCount v).fLength = s.fLength := rfl
@[simp] theorem State.setCount_fMsgId (s : State) (v : Byte) : (s.setCount v).fMsgId = s.fMsgId := rfl
@[simp] theorem State.setCount_fSeq (s : State) (v : Byte) : (s.setCount v).fSeq = s.fSeq := rfl
@[simp] theorem State.setCount_pCount (s : State) (v : Byte) : (s.setCount v).pCount = v := rfl
@[simp] theorem State.setCount_pbuf (s : State) (v : Byte) : (s.setCount v).pbuf = s.pbuf := rfl
@[simp] theorem State.setCount_fCrcRx (s : State) (v : Byte) : (s.setCount v).fCrcRx = s.fCrcRx := rfl
@[simp] theorem State.setCount_pend (s : State) (v : Byte) : (s.setCount v).pend = s.pend := rfl
@[simp] theorem State.setCount_evq (s : State) (v : Byte) : (s.setCount v).evq = s.evq := rfl
@[simp] theorem State.setCount_txq (s : State) (v : Byte) : (s.setCount v).txq = s.txq := rfl
@[simp] theorem State.setCount_link (s : State) (v : Byte) : (s.setCount v).link = s.link := rfl
@[simp] theorem State.setCount_input (s : State) (v : Byte) : (s.setCount v).input = s.input := rfl

@[simp] theorem State.setCrcRx_cfg (s : State) (v : Half) : (s.setCrcRx v).cfg = s.cfg := rfl
@[simp] theorem State.setCrcRx_ready (s : State) (v : Half) : (s.setCrcRx v).ready = s.ready := rfl
@[simp] theorem State.setCrcRx_fsm (s : State) (v : Half) : (s.setCrcRx v).fsm = s.fsm := rfl
@[simp] theorem State.setCrcRx_fVersion (s : State) (v : Half) : (s.setCrcRx v).fVersion = s.fVersion := rfl
@[simp] theorem State.setCrcRx_fLength (s : State) (v : Half) : (s.setCrcRx v).fLength = s.fLength := rfl
@[simp] theorem State.setCrcRx_fMsgId (s : State) (v : Half) : (s.setCrcRx v).fMsgId = s.fMsgId := rfl
@[simp] theorem State.setCrcRx_fSeq (s : State) (v : Half) : (s.setCrcRx v).fSeq = s.fSeq := rfl
@[simp] theorem State.setCrcRx_pCount (s : State) (v : Half) : (s.setCrcRx v).pCount = s.pCount := rfl
@[simp] theorem State.setCrcRx_pbuf (s : State) (v : Half) : (s.setCrcRx v).pbuf = s.pbuf := rfl
@[simp] theorem State.setCrcRx_fCrcRx (s : State) (v : Half) : (s.setCrcRx v).fCrcRx = v := rfl
@[simp] theorem State.setCrcRx_pend (s : State) (v : Half) : (s.setCrcRx v).pend = s.pend := rfl
@[simp] theorem State.setCrcRx_evq (s : State) (v : Half) : (s.setCrcRx v).evq = s.evq := rfl
@[simp] theorem State.setCrcRx_txq (s : State) (v : Half) : (s.setCrcRx v).txq = s.txq := rfl
@[simp] theorem State.setCrcRx_link (s : State) (v : Half) : (s.setCrcRx v).link = s.link := rfl
@[simp] theorem State.setCrcRx_input (s : State) (v : Half) : (s.setCrcRx v).input = s.input := rfl

@[simp] theorem State.writePbuf_cfg (s : State) (i : Nat) (v : Byte) : (s.writePbuf i v).cfg = s.cfg := rfl
@[simp] theorem State.writePbuf_ready (s : State) (i : Nat) (v : Byte) : (s.writePbuf i v).ready = s.ready := rfl
@[simp] theorem State.writePbuf_fsm (s : State) (i : Nat) (v : Byte) : (s.writePbuf i v).fsm = s.fsm := rfl
@[simp] theorem State.writePbuf_fVersion (s : State) (i : Nat) (v : Byte) : (s.writePbuf i v).fVersion = s.fVersion := rfl
@[simp] theorem State.writePbuf_fLength (s : State) (i : Nat) (v : Byte) : (s.writePbuf i v).fLength = s.fLength := rfl
@[simp] theorem State.writePbuf_fMsgId (s : State) (i : Nat) (v : Byte) : (s.writePbuf i v).fMsgId = s.fMsgId := rfl
@[simp] theorem State.writePbuf_fSeq (s : State) (i : Nat) (v : Byte) : (s.writePbuf i v).fSeq = s.fSeq := rfl
@[simp] theorem State.writePbuf_pCount (s : State) (i : Nat) (v : Byte) : (s.writePbuf i v).pCount = s.pCount := rfl
@[simp] theorem State.writePbuf_pbuf (s : State) (i : Nat) (v : Byte) : (s.writePbuf i v).pbuf = Memory.write s.pbuf i v := rfl
@[simp] theorem State.writePbuf_fCrcRx (s : State) (i : Nat) (v : Byte) : (s.writePbuf i v).fCrcRx = s.fCrcRx := rfl
@[simp] theorem State.writePbuf_pend (s : State) (i : Nat) (v : Byte) : (s.writePbuf i v).pend = s.pend := rfl
@[simp] theorem State.writePbuf_evq (s : State) (i : Nat) (v : Byte) : (s.writePbuf i v).evq = s.evq := rfl
@[simp] theorem State.writePbuf_txq (s : State) (i : Nat) (v : Byte) : (s.writePbuf i v).txq = s.txq := rfl
@[simp] theorem State.writePbuf_link (s : State) (i : Nat) (v : Byte) : (s.writePbuf i v).link = s.link := rfl
@[simp] theorem State.writePbuf_input (s : State) (i : Nat) (v : Byte) : (s.writePbuf i v).input = s.input := rfl

@[simp] theorem State.setPend_cfg (s : State) (p : PendFile) : (s.setPend p).cfg = s.cfg := rfl
@[simp] theorem State.setPend_ready (s : State) (p : PendFile) : (s.setPend p).ready = s.ready := rfl
@[simp] theorem State.setPend_fsm (s : State) (p : PendFile) : (s.setPend p).fsm = s.fsm := rfl
@[simp] theorem State.setPend_fVersion (s : State) (p : PendFile) : (s.setPend p).fVersion = s.fVersion := rfl
@[simp] theorem State.setPend_fLength (s : State) (p : PendFile) : (s.setPend p).fLength = s.fLength := rfl
@[simp] theorem State.setPend_fMsgId (s : State) (p : PendFile) : (s.setPend p).fMsgId = s.fMsgId := rfl
@[simp] theorem State.setPend_fSeq (s : State) (p : PendFile) : (s.setPend p).fSeq = s.fSeq := rfl
@[simp] theorem State.setPend_pCount (s : State) (p : PendFile) : (s.setPend p).pCount = s.pCount := rfl
@[simp] theorem State.setPend_pbuf (s : State) (p : PendFile) : (s.setPend p).pbuf = s.pbuf := rfl
@[simp] theorem State.setPend_fCrcRx (s : State) (p : PendFile) : (s.setPend p).fCrcRx = s.fCrcRx := rfl
@[simp] theorem State.setPend_pend (s : State) (p : PendFile) : (s.setPend p).pend = p := rfl
@[simp] theorem State.setPend_evq (s : State) (p : PendFile) : (s.setPend p).evq = s.evq := rfl
@[simp] theorem State.setPend_txq (s : State) (p : PendFile) : (s.setPend p).txq = s.txq := rfl
@[simp] theorem State.setPend_link (s : State) (p : PendFile) : (s.setPend p).link = s.link := rfl
@[simp] theorem State.setPend_input (s : State) (p : PendFile) : (s.setPend p).input = s.input := rfl

@[simp] theorem State.writePend_cfg (s : State) (k : Byte) (e : PendEntry) : (s.writePend k e).cfg = s.cfg := rfl
@[simp] theorem State.writePend_ready (s : State) (k : Byte) (e : PendEntry) : (s.writePend k e).ready = s.ready := rfl
@[simp] theorem State.writePend_fsm (s : State) (k : Byte) (e : PendEntry) : (s.writePend k e).fsm = s.fsm := rfl
@[simp] theorem State.writePend_fVersion (s : State) (k : Byte) (e : PendEntry) : (s.writePend k e).fVersion = s.fVersion := rfl
@[simp] theorem State.writePend_fLength (s : State) (k : Byte) (e : PendEntry) : (s.writePend k e).fLength = s.fLength := rfl
@[simp] theorem State.writePend_fMsgId (s : State) (k : Byte) (e : PendEntry) : (s.writePend k e).fMsgId = s.fMsgId := rfl
@[simp] theorem State.writePend_fSeq (s : State) (k : Byte) (e : PendEntry) : (s.writePend k e).fSeq = s.fSeq := rfl
@[simp] theorem State.writePend_pCount (s : State) (k : Byte) (e : PendEntry) : (s.writePend k e).pCount = s.pCount := rfl
@[simp] theorem State.writePend_pbuf (s : State) (k : Byte) (e : PendEntry) : (s.writePend k e).pbuf = s.pbuf := rfl
@[simp] theorem State.writePend_fCrcRx (s : State) (k : Byte) (e : PendEntry) : (s.writePend k e).fCrcRx = s.fCrcRx := rfl
@[simp] theorem State.writePend_pend (s : State) (k : Byte) (e : PendEntry) : (s.writePend k e).pend = PendFile.write s.pend k.toNat e := rfl
@[simp] theorem State.writePend_evq (s : State) (k : Byte) (e : PendEntry) : (s.writePend k e).evq = s.evq := rfl
@[simp] theorem State.writePend_txq (s : State) (k : Byte) (e : PendEntry) : (s.writePend k e).txq = s.txq := rfl
@[simp] theorem State.writePend_link (s : State) (k : Byte) (e : PendEntry) : (s.writePend k e).link = s.link := rfl
@[simp] theorem State.writePend_input (s : State) (k : Byte) (e : PendEntry) : (s.writePend k e).input = s.input := rfl

@[simp] theorem State.emit_cfg (s : State) (e : Event) : (s.emit e).cfg = s.cfg := rfl
@[simp] theorem State.emit_ready (s : State) (e : Event) : (s.emit e).ready = s.ready := rfl
@[simp] theorem State.emit_fsm (s : State) (e : Event) : (s.emit e).fsm = s.fsm := rfl
@[simp] theorem State.emit_fVersion (s : State) (e : Event) : (s.emit e).fVersion = s.fVersion := rfl
@[simp] theorem State.emit_fLength (s : State) (e : Event) : (s.emit e).fLength = s.fLength := rfl
@[simp] theorem State.emit_fMsgId (s : State) (e : Event) : (s.emit e).fMsgId = s.fMsgId := rfl
@[simp] theorem State.emit_fSeq (s : State) (e : Event) : (s.emit e).fSeq = s.fSeq := rfl
@[simp] theorem State.emit_pCount (s : State) (e : Event) : (s.emit e).pCount = s.pCount := rfl
@[simp] theorem State.emit_pbuf (s : State) (e : Event) : (s.emit e).pbuf = s.pbuf := rfl
@[simp] theorem State.emit_fCrcRx (s : State) (e : Event) : (s.emit e).fCrcRx = s.fCrcRx := rfl
@[simp] theorem State.emit_pend (s : State) (e : Event) : (s.emit e).pend = s.pend := rfl
@[simp] theorem State.emit_evq (s : State) (e : Event) : (s.emit e).evq = s.evq ++ [e] := rfl
@[simp] theorem State.emit_txq (s : State) (e : Event) : (s.emit e).txq = s.txq := rfl
@[simp] theorem State.emit_link (s : State) (e : Event) : (s.emit e).link = s.link := rfl
@[simp] theorem State.emit_input (s : State) (e : Event) : (s.emit e).input = s.input := rfl

@[simp] theorem State.raiseDiag_cfg (s : State) (d : DiagCode) (a b : Half) : (s.raiseDiag d a b).cfg = s.cfg := rfl
@[simp] theorem State.raiseDiag_ready (s : State) (d : DiagCode) (a b : Half) : (s.raiseDiag d a b).ready = s.ready := rfl
@[simp] theorem State.raiseDiag_fsm (s : State) (d : DiagCode) (a b : Half) : (s.raiseDiag d a b).fsm = s.fsm := rfl
@[simp] theorem State.raiseDiag_fVersion (s : State) (d : DiagCode) (a b : Half) : (s.raiseDiag d a b).fVersion = s.fVersion := rfl
@[simp] theorem State.raiseDiag_fLength (s : State) (d : DiagCode) (a b : Half) : (s.raiseDiag d a b).fLength = s.fLength := rfl
@[simp] theorem State.raiseDiag_fMsgId (s : State) (d : DiagCode) (a b : Half) : (s.raiseDiag d a b).fMsgId = s.fMsgId := rfl
@[simp] theorem State.raiseDiag_fSeq (s : State) (d : DiagCode) (a b : Half) : (s.raiseDiag d a b).fSeq = s.fSeq := rfl
@[simp] theorem State.raiseDiag_pCount (s : State) (d : DiagCode) (a b : Half) : (s.raiseDiag d a b).pCount = s.pCount := rfl
@[simp] theorem State.raiseDiag_pbuf (s : State) (d : DiagCode) (a b : Half) : (s.raiseDiag d a b).pbuf = s.pbuf := rfl
@[simp] theorem State.raiseDiag_fCrcRx (s : State) (d : DiagCode) (a b : Half) : (s.raiseDiag d a b).fCrcRx = s.fCrcRx := rfl
@[simp] theorem State.raiseDiag_pend (s : State) (d : DiagCode) (a b : Half) : (s.raiseDiag d a b).pend = s.pend := rfl
@[simp] theorem State.raiseDiag_evq (s : State) (d : DiagCode) (a b : Half) : (s.raiseDiag d a b).evq = s.evq ++ [.diag d a b] := rfl
@[simp] theorem State.raiseDiag_txq (s : State) (d : DiagCode) (a b : Half) : (s.raiseDiag d a b).txq = s.txq := rfl
@[simp] theorem State.raiseDiag_link (s : State) (d : DiagCode) (a b : Half) : (s.raiseDiag d a b).link = s.link := rfl
@[simp] theorem State.raiseDiag_input (s : State) (d : DiagCode) (a b : Half) : (s.raiseDiag d a b).input = s.input := rfl

@[simp] theorem State.txout_cfg (s : State) (l : List Byte) : (s.txout l).cfg = s.cfg := rfl
@[simp] theorem State.txout_ready (s : State) (l : List Byte) : (s.txout l).ready = s.ready := rfl
@[simp] theorem State.txout_fsm (s : State) (l : List Byte) : (s.txout l).fsm = s.fsm := rfl
@[simp] theorem State.txout_fVersion (s : State) (l : List Byte) : (s.txout l).fVersion = s.fVersion := rfl
@[simp] theorem State.txout_fLength (s : State) (l : List Byte) : (s.txout l).fLength = s.fLength := rfl
@[simp] theorem State.txout_fMsgId (s : State) (l : List Byte) : (s.txout l).fMsgId = s.fMsgId := rfl
@[simp] theorem State.txout_fSeq (s : State) (l : List Byte) : (s.txout l).fSeq = s.fSeq := rfl
@[simp] theorem State.txout_pCount (s : State) (l : List Byte) : (s.txout l).pCount = s.pCount := rfl
@[simp] theorem State.txout_pbuf (s : State) (l : List Byte) : (s.txout l).pbuf = s.pbuf := rfl
@[simp] theorem State.txout_fCrcRx (s : State) (l : List Byte) : (s.txout l).fCrcRx = s.fCrcRx := rfl
@[simp] theorem State.txout_pend (s : State) (l : List Byte) : (s.txout l).pend = s.pend := rfl
@[simp] theorem State.txout_evq (s : State) (l : List Byte) : (s.txout l).evq = s.evq := rfl
@[simp] theorem State.txout_txq (s : State) (l : List Byte) : (s.txout l).txq = s.txq ++ l := rfl
@[simp] theorem State.txout_link (s : State) (l : List Byte) : (s.txout l).link = s.link := rfl
@[simp] theorem State.txout_input (s : State) (l : List Byte) : (s.txout l).input = s.input := rfl

@[simp] theorem State.emptyChannels_cfg (s : State) : (s.emptyChannels).cfg = s.cfg := rfl
@[simp] theorem State.emptyChannels_ready (s : State) : (s.emptyChannels).ready = s.ready := rfl
@[simp] theorem State.emptyChannels_fsm (s : State) : (s.emptyChannels).fsm = s.fsm := rfl
@[simp] theorem State.emptyChannels_fVersion (s : State) : (s.emptyChannels).fVersion = s.fVersion := rfl
@[simp] theorem State.emptyChannels_fLength (s : State) : (s.emptyChannels).fLength = s.fLength := rfl
@[simp] theorem State.emptyChannels_fMsgId (s : State) : (s.emptyChannels).fMsgId = s.fMsgId := rfl
@[simp] theorem State.emptyChannels_fSeq (s : State) : (s.emptyChannels).fSeq = s.fSeq := rfl
@[simp] theorem State.emptyChannels_pCount (s : State) : (s.emptyChannels).pCount = s.pCount := rfl
@[simp] theorem State.emptyChannels_pbuf (s : State) : (s.emptyChannels).pbuf = s.pbuf := rfl
@[simp] theorem State.emptyChannels_fCrcRx (s : State) : (s.emptyChannels).fCrcRx = s.fCrcRx := rfl
@[simp] theorem State.emptyChannels_pend (s : State) : (s.emptyChannels).pend = s.pend := rfl
@[simp] theorem State.emptyChannels_evq (s : State) : (s.emptyChannels).evq = [] := rfl
@[simp] theorem State.emptyChannels_txq (s : State) : (s.emptyChannels).txq = [] := rfl
@[simp] theorem State.emptyChannels_link (s : State) : (s.emptyChannels).link = s.link := rfl
@[simp] theorem State.emptyChannels_input (s : State) : (s.emptyChannels).input = s.input := rfl

@[simp] theorem State.setReady_cfg (s : State) : (s.setReady).cfg = s.cfg := rfl
@[simp] theorem State.setReady_ready (s : State) : (s.setReady).ready = true := rfl
@[simp] theorem State.setReady_fsm (s : State) : (s.setReady).fsm = s.fsm := rfl
@[simp] theorem State.setReady_fVersion (s : State) : (s.setReady).fVersion = s.fVersion := rfl
@[simp] theorem State.setReady_fLength (s : State) : (s.setReady).fLength = s.fLength := rfl
@[simp] theorem State.setReady_fMsgId (s : State) : (s.setReady).fMsgId = s.fMsgId := rfl
@[simp] theorem State.setReady_fSeq (s : State) : (s.setReady).fSeq = s.fSeq := rfl
@[simp] theorem State.setReady_pCount (s : State) : (s.setReady).pCount = s.pCount := rfl
@[simp] theorem State.setReady_pbuf (s : State) : (s.setReady).pbuf = s.pbuf := rfl
@[simp] theorem State.setReady_fCrcRx (s : State) : (s.setReady).fCrcRx = s.fCrcRx := rfl
@[simp] theorem State.setReady_pend (s : State) : (s.setReady).pend = s.pend := rfl
@[simp] theorem State.setReady_evq (s : State) : (s.setReady).evq = s.evq := rfl
@[simp] theorem State.setReady_txq (s : State) : (s.setReady).txq = s.txq := rfl
@[simp] theorem State.setReady_link (s : State) : (s.setReady).link = s.link := rfl
@[simp] theorem State.setReady_input (s : State) : (s.setReady).input = s.input := rfl

@[simp] theorem State.parserReset_cfg (s : State) : (s.parserReset).cfg = s.cfg := rfl
@[simp] theorem State.parserReset_ready (s : State) : (s.parserReset).ready = s.ready := rfl
@[simp] theorem State.parserReset_fsm (s : State) : (s.parserReset).fsm = .waitSync0 := rfl
@[simp] theorem State.parserReset_fVersion (s : State) : (s.parserReset).fVersion = 0#8 := rfl
@[simp] theorem State.parserReset_fLength (s : State) : (s.parserReset).fLength = 0#16 := rfl
@[simp] theorem State.parserReset_fMsgId (s : State) : (s.parserReset).fMsgId = 0#8 := rfl
@[simp] theorem State.parserReset_fSeq (s : State) : (s.parserReset).fSeq = 0#8 := rfl
@[simp] theorem State.parserReset_pCount (s : State) : (s.parserReset).pCount = 0#8 := rfl
@[simp] theorem State.parserReset_pbuf (s : State) : (s.parserReset).pbuf = s.pbuf := rfl
@[simp] theorem State.parserReset_fCrcRx (s : State) : (s.parserReset).fCrcRx = 0#16 := rfl
@[simp] theorem State.parserReset_pend (s : State) : (s.parserReset).pend = s.pend := rfl
@[simp] theorem State.parserReset_evq (s : State) : (s.parserReset).evq = s.evq := rfl
@[simp] theorem State.parserReset_txq (s : State) : (s.parserReset).txq = s.txq := rfl
@[simp] theorem State.parserReset_link (s : State) : (s.parserReset).link = s.link := rfl
@[simp] theorem State.parserReset_input (s : State) : (s.parserReset).input = s.input := rfl

end Sys2Proof.Machine
end

