-- ==== Sys2Proof/Laws/Ops.lean ====
section
/-! SUPPORT. One law for each shared operation: everything it can do, said once. A proof cites these and does not unfold the operation. -/
namespace Sys2Proof.Machine

/-! ### Sequencing and the checks -/

theorem andThen_eq_next {r : Result} {k : State → Result} {t : State} :
    andThen r k = .next t ↔ ∃ s, r = .next s ∧ k s = .next t := by
  cases r <;> simp [andThen]

@[simp] theorem andThen_next (s : State) (k : State → Result) : andThen (.next s) k = k s := rfl
@[simp] theorem andThen_fault (e : Fault) (k : State → Result) : andThen (.fault e) k = .fault e := rfl
@[simp] theorem andThen_refused (e : Refusal) (k : State → Result) : andThen (.refused e) k = .refused e := rfl

theorem andThen_assoc (r : Result) (k l : State → Result) :
    andThen (andThen r k) l = andThen r (fun s => andThen (k s) l) := by
  cases r <;> rfl

theorem whenReady_eq_next {s t : State} {r : Result} : whenReady s r = .next t ↔ s.ready = true ∧ r = .next t := by
  unfold whenReady; split <;> simp_all

theorem whenReady_of_ready {s : State} (h : s.ready = true) (r : Result) : whenReady s r = r := by simp [whenReady, h]

theorem whenReady_of_not {s : State} (h : s.ready = false) (r : Result) : whenReady s r = .refused .beforeReset := by
  simp [whenReady, h]

theorem whenRoom_eq_next {n : Nat} {s t : State} {r : Result} :
    whenRoom n s r = .next t ↔ s.hasRoom n = true ∧ r = .next t := by
  unfold whenRoom; split <;> simp_all

theorem whenRoom_of_room {n : Nat} {s : State} (h : s.hasRoom n = true) (r : Result) : whenRoom n s r = r := by
  simp [whenRoom, h]

/-- An unbounded channel always has room (R35). -/
theorem State.hasRoom_of_unbounded {s : State} (h : s.cfg.evqDepth = none) (n : Nat) : s.hasRoom n = true := by
  simp [State.hasRoom, h]

/-- Room depends on the depth and on how much the channel holds, and on nothing else. -/
theorem State.hasRoom_congr {s t : State} (hc : t.cfg = s.cfg) (he : t.evq = s.evq) (n : Nat) : t.hasRoom n = s.hasRoom n := by
  simp [State.hasRoom, hc, he]

theorem State.hasRoom_mono {s : State} {m n : Nat} (hmn : m ≤ n) (h : s.hasRoom n = true) : s.hasRoom m = true := by
  unfold State.hasRoom at *
  split at h <;> simp_all
  omega

/-! ### The payload -/

theorem State.payload_eq_some {s : State} {p : List Byte} :
    s.payload = some p ↔
      s.fLength.toNat ≤ pbufEntries ∧ p = (List.range s.fLength.toNat).map (Memory.read s.pbuf) := by
  unfold State.payload; split <;> simp_all [eq_comm]

theorem State.payload_length {s : State} {p : List Byte} (h : s.payload = some p) : p.length = s.fLength.toNat := by
  obtain ⟨_, rfl⟩ := State.payload_eq_some.1 h; simp

theorem State.payload_isSome {s : State} (h : s.fLength.toNat ≤ pbufEntries) : ∃ p, s.payload = some p :=
  ⟨_, State.payload_eq_some.2 ⟨h, rfl⟩⟩

/-! ### Dispatch and the correlator -/

theorem emitFrame_eq_next {s t : State} :
    emitFrame s = .next t ↔
      ∃ p, s.payload = some p ∧ t = s.emit (.frame s.fVersion s.fMsgId s.fSeq s.fLength p) := by
  unfold emitFrame
  split
  · next p hp =>
    simp only [hp, Option.some.injEq, Host.Outcome.next.injEq]
    exact ⟨fun h => ⟨p, rfl, h.symm⟩, fun ⟨q, hq, h⟩ => by rw [h, ← hq]⟩
  · next hp => simp [hp]

theorem dispatchPlain_eq_next {s t : State} :
    dispatchPlain s = .next t ↔ s.ready = true ∧ s.hasRoom 1 = true ∧
      ∃ p, s.payload = some p ∧ t = s.emit (.frame s.fVersion s.fMsgId s.fSeq s.fLength p) := by
  simp only [dispatchPlain, whenReady_eq_next, whenRoom_eq_next, emitFrame_eq_next]

/-- The three ends of `ack_correlate` (R150): it does nothing; it clears an expired entry; it clears a matched entry and reports. -/
theorem ackCorrelate_cases (now : Nat) (s : State) :
    (ackCorrelate now s = s ∧ (s.fLength.toNat < ackMinLen ∨ (s.pendAt s.fSeq).valid = false)) ∨
    (ackMinLen ≤ s.fLength.toNat ∧ (s.pendAt s.fSeq).valid = true ∧ expired s.cfg (s.pendAt s.fSeq).ts now = true ∧
      ackCorrelate now s = s.writePend s.fSeq ⟨false, (s.pendAt s.fSeq).ts⟩) ∨
    (ackMinLen ≤ s.fLength.toNat ∧ (s.pendAt s.fSeq).valid = true ∧ expired s.cfg (s.pendAt s.fSeq).ts now = false ∧
      ackCorrelate now s = (s.writePend s.fSeq ⟨false, (s.pendAt s.fSeq).ts⟩).emit
        (.rtt s.fSeq (tsSub s.cfg now (s.pendAt s.fSeq).ts) s.ackCmdId s.ackStatus s.ackInfo)) := by
  unfold ackCorrelate State.ackLongEnough
  by_cases hl : ackMinLen ≤ s.fLength.toNat
  · cases hv : (s.pendAt s.fSeq).valid <;> cases he : expired s.cfg (s.pendAt s.fSeq).ts now <;> simp [hl, hv, he]
  · simp only [hl, decide_false, Bool.false_eq_true, if_false]
    exact .inl ⟨trivial, .inl (by omega)⟩

theorem execMsgAck_eq_next {now : Nat} {s t : State} :
    execMsgAck now s = .next t ↔ s.ready = true ∧ s.hasRoom 2 = true ∧
      ∃ p, s.payload = some p ∧ t = ackCorrelate now (s.emit (.frame s.fVersion s.fMsgId s.fSeq s.fLength p)) := by
  simp only [execMsgAck, whenReady_eq_next, whenRoom_eq_next, andThen_eq_next, emitFrame_eq_next]
  constructor
  · rintro ⟨hr, hm, u, ⟨p, hp, rfl⟩, h⟩
    exact ⟨hr, hm, p, hp, by simpa [eq_comm] using h⟩
  · rintro ⟨hr, hm, p, hp, rfl⟩
    exact ⟨hr, hm, _, ⟨p, hp, rfl⟩, rfl⟩

/-- `dispatch` (R107): every kind but the Ack is dispatched the same way (R89). -/
theorem dispatch_eq (now : Nat) (s : State) :
    dispatch now s = if s.fMsgId = ackMsgId then execMsgAck now s else dispatchPlain s := by
  unfold dispatch
  by_cases h : s.fMsgId = ackMsgId
  · simp [h]
  · have hn : s.fMsgId.toNat ≠ 0x24 := fun e => h (BitVec.eq_of_toNat_eq e)
    rw [if_neg h]
    split <;> first | rfl | (exfalso; omega)

/-! ### Validation -/

/-- The three answers of `validate` (R105). -/
theorem validate_cases (s : State) (p : List Byte) :
    (crc16 (s.span p) ≠ s.fCrcRx ∧ validate s p = .crcMismatch s.fCrcRx (crc16 (s.span p))) ∨
    (crc16 (s.span p) = s.fCrcRx ∧ s.fVersion ≠ protoVersion ∧ validate s p = .versionMismatch s.fVersion) ∨
    (crc16 (s.span p) = s.fCrcRx ∧ s.fVersion = protoVersion ∧ validate s p = .ok) := by
  unfold validate
  by_cases hc : crc16 (s.span p) = s.fCrcRx <;> by_cases hv : s.fVersion = protoVersion <;> simp [hc, hv]

/-- The frame-completing transition (R131). -/
theorem execRxReadCrcHi_eq_next {b : Byte} {now : Nat} {s t : State} :
    execRxReadCrcHi b now s = .next t ↔ s.ready = true ∧ s.hasRoom 2 = true ∧
      ∃ p u, (s.setCrcRx (s.fCrcRx ||| (zext16 b <<< 8))).payload = some p ∧
        concludeFrame (validate (s.setCrcRx (s.fCrcRx ||| (zext16 b <<< 8))) p) now (s.setCrcRx (s.fCrcRx ||| (zext16 b <<< 8))) = .next u ∧
        t = u.parserReset := by
  simp only [execRxReadCrcHi, whenReady_eq_next, whenRoom_eq_next]
  cases hp : (s.setCrcRx (s.fCrcRx ||| (zext16 b <<< 8))).payload with
  | none => simp
  | some p =>
    simp only [andThen_eq_next, Host.Outcome.next.injEq, Option.some.injEq]
    constructor
    · rintro ⟨hr, hm, u, hu, rfl⟩
      exact ⟨hr, hm, p, u, rfl, hu, rfl⟩
    · rintro ⟨hr, hm, q, u, rfl, hu, rfl⟩
      exact ⟨hr, hm, u, hu, rfl⟩

end Sys2Proof.Machine
end

