-- ==== Sys2Proof/Laws/Store.lean ====
section
/-! SUPPORT. The laws of the two address spaces: a read after a write, the frame of a write, and that every write, `RESET`'s clearing
and `SWEEP`'s loop keep the canonical form. -/
namespace Sys2Proof.Machine

variable {α : Type}

theorem storeRead_filter_same (d : α) (m : List (Nat × α)) (i : Nat) :
    storeRead d (m.filter (fun c => c.1 ≠ i)) i = d := by
  induction m with
  | nil => rfl
  | cons c m ih =>
    by_cases h : c.1 = i
    · simpa [h] using ih
    · simp only [ne_eq, h, not_false_eq_true, decide_true, List.filter_cons_of_pos]
      simpa [storeRead, h] using ih

theorem storeRead_filter_other (d : α) (m : List (Nat × α)) {i j : Nat} (hj : j ≠ i) :
    storeRead d (m.filter (fun c => c.1 ≠ i)) j = storeRead d m j := by
  induction m with
  | nil => rfl
  | cons c m ih =>
    by_cases h : c.1 = i
    · have hcj : c.1 ≠ j := fun e => hj (e.symm.trans h)
      rw [List.filter_cons_of_neg (by simp [h]), ih]
      simp [storeRead, hcj]
    · rw [List.filter_cons_of_pos (by simp [h])]
      simp only [storeRead, ih]

theorem storeRead_insert_same (d : α) (m : List (Nat × α)) (i : Nat) (v : α) (h : ∀ c ∈ m, c.1 ≠ i) :
    storeRead d (storeInsert i v m) i = v := by
  induction m with
  | nil => simp [storeInsert, storeRead]
  | cons c m ih =>
    simp only [storeInsert]
    split
    · simp [storeRead]
    · have hc := h c (by simp)
      simpa [storeRead, hc] using ih (fun c' hc' => h c' (by simp [hc']))

theorem storeRead_insert_other (d : α) (m : List (Nat × α)) {i j : Nat} (v : α) (hj : j ≠ i) :
    storeRead d (storeInsert i v m) j = storeRead d m j := by
  induction m with
  | nil => simp [storeInsert, storeRead, hj.symm]
  | cons c m ih =>
    simp only [storeInsert]
    split
    · simp [storeRead, hj.symm]
    · simp only [storeRead, ih]

section
variable [DecidableEq α]

/-- A read of the written index. -/
theorem storeRead_write_same (d : α) (m : List (Nat × α)) (i : Nat) (v : α) : storeRead d (storeWrite d m i v) i = v := by
  unfold storeWrite
  split
  · next h => rw [h]; exact storeRead_filter_same d m i
  · exact storeRead_insert_same d _ i v (by simp)

/-- A read of any other index. -/
theorem storeRead_write_other (d : α) (m : List (Nat × α)) {i j : Nat} (v : α) (hj : j ≠ i) :
    storeRead d (storeWrite d m i v) j = storeRead d m j := by
  unfold storeWrite
  split
  · exact storeRead_filter_other d m hj
  · rw [storeRead_insert_other d _ v hj]; exact storeRead_filter_other d m hj

omit [DecidableEq α] in
theorem storeInsert_mem {i : Nat} {v : α} {m : List (Nat × α)} {c : Nat × α} (h : c ∈ storeInsert i v m) :
    c = (i, v) ∨ c ∈ m := by
  induction m with
  | nil => simpa [storeInsert] using h
  | cons b m ih =>
    simp only [storeInsert] at h
    split at h
    · simpa using h
    · rcases List.mem_cons.1 h with h | h
      · exact .inr (by simp [h])
      · rcases ih h with h | h
        · exact .inl h
        · exact .inr (by simp [h])

omit [DecidableEq α] in
theorem storeInsert_sorted {i : Nat} {v : α} {m : List (Nat × α)} (hm : m.Pairwise (fun a b => a.1 < b.1))
    (hi : ∀ c ∈ m, c.1 ≠ i) : (storeInsert i v m).Pairwise (fun a b => a.1 < b.1) := by
  induction m with
  | nil => simp [storeInsert]
  | cons b m ih =>
    obtain ⟨hb, hm'⟩ := List.pairwise_cons.1 hm
    simp only [storeInsert]
    split
    · next hlt =>
      refine List.pairwise_cons.2 ⟨fun c hc => ?_, hm⟩
      rcases List.mem_cons.1 hc with rfl | hc
      · exact hlt
      · exact Nat.lt_trans hlt (hb c hc)
    · next hge =>
      refine List.pairwise_cons.2 ⟨fun c hc => ?_, ih hm' (fun c hc => hi c (by simp [hc]))⟩
      rcases storeInsert_mem hc with rfl | hc
      · have := hi b (by simp); simp only; omega
      · exact hb c hc

theorem storeWrite_mem {d : α} {m : List (Nat × α)} {i : Nat} {v : α} {c : Nat × α} (h : c ∈ storeWrite d m i v) :
    (c = (i, v) ∧ v ≠ d) ∨ c ∈ m := by
  unfold storeWrite at h
  split at h
  · exact .inr (List.mem_filter.1 h).1
  · next hv =>
    rcases storeInsert_mem h with h | h
    · exact .inl ⟨h, hv⟩
    · exact .inr (List.mem_filter.1 h).1

/-- A write keeps the canonical form. -/
theorem storeWrite_wf {d : α} {size : Nat} {m : List (Nat × α)} {i : Nat} (v : α) (hm : storeWf d size m) (hi : i < size) :
    storeWf d size (storeWrite d m i v) := by
  refine ⟨?_, fun c hc => ?_⟩
  · unfold storeWrite
    split
    · exact hm.1.filter _
    · exact storeInsert_sorted (hm.1.filter _) (by simp)
  · rcases storeWrite_mem hc with ⟨rfl, hv⟩ | hc
    · exact ⟨hi, hv⟩
    · exact hm.2 c hc

end

/-! ### `PBUF` -/

@[simp] theorem Memory.read_write_same (m : Memory) (i : Nat) (v : Byte) : Memory.read (Memory.write m i v) i = v :=
  storeRead_write_same _ m i v

theorem Memory.read_write_other (m : Memory) {i j : Nat} (v : Byte) (h : j ≠ i) :
    Memory.read (Memory.write m i v) j = Memory.read m j := storeRead_write_other _ m v h

theorem Memory.write_wf {m : Memory} {i : Nat} (v : Byte) (hm : Memory.wf m) (hi : i < pbufEntries) :
    Memory.wf (Memory.write m i v) := storeWrite_wf v hm hi

/-! ### `PEND` -/

@[simp] theorem PendFile.read_write_same (p : PendFile) (k : Nat) (e : PendEntry) :
    PendFile.read (PendFile.write p k e) k = e := storeRead_write_same _ p k e

theorem PendFile.read_write_other (p : PendFile) {k j : Nat} (e : PendEntry) (h : j ≠ k) :
    PendFile.read (PendFile.write p k e) j = PendFile.read p j := storeRead_write_other _ p e h

theorem PendFile.write_wf {p : PendFile} {k : Nat} (e : PendEntry) (hp : PendFile.wf p) (hk : k < pendEntries) :
    PendFile.wf (PendFile.write p k e) := storeWrite_wf e hp hk

/-- A loop over the entries that touches only the entry of its own turn: what each index reads afterwards. -/
theorem pendLoop_read (g : PendFile → Nat → PendFile) (h : PendEntry → PendEntry)
    (hg : ∀ p k j, PendFile.read (g p k) j = if j = k then h (PendFile.read p k) else PendFile.read p j)
    (n : Nat) (p : PendFile) (j : Nat) :
    PendFile.read ((List.range n).foldl g p) j = if j < n then h (PendFile.read p j) else PendFile.read p j := by
  induction n generalizing j with
  | zero => simp
  | succ n ih =>
    rw [List.range_succ, List.foldl_append, List.foldl_cons, List.foldl_nil, hg, ih, ih]
    by_cases hj : j = n
    · subst hj; simp
    · simp only [hj, if_false]
      split_ifs <;> first | rfl | omega

/-- A loop whose every turn keeps a property keeps it. -/
theorem pendLoop_keeps (g : PendFile → Nat → PendFile) (P : PendFile → Prop) (n : Nat)
    (hg : ∀ p k, k < n → P p → P (g p k)) (p : PendFile) (hp : P p) : P ((List.range n).foldl g p) := by
  have : ∀ l : List Nat, (∀ k ∈ l, k < n) → ∀ p, P p → P (l.foldl g p) := by
    intro l
    induction l with
    | nil => exact fun _ _ hp => hp
    | cons k l ih => exact fun hl p hp => ih (fun k' hk' => hl k' (by simp [hk'])) _ (hg p k (hl k (by simp)) hp)
  exact this _ (fun k hk => List.mem_range.1 hk) p hp

theorem sweepEntry_read (c : Config) (now : Nat) (p : PendFile) (k j : Nat) :
    PendFile.read (sweepEntry c now p k) j =
      if j = k then
        (if (PendFile.read p k).valid && expired c (PendFile.read p k).ts now then ⟨false, (PendFile.read p k).ts⟩ else PendFile.read p k)
      else PendFile.read p j := by
  unfold sweepEntry
  by_cases hj : j = k
  · subst hj; simp only; split_ifs <;> simp
  · simp only; split_ifs with h
    · exact PendFile.read_write_other p _ hj
    · rfl

/-- What `SWEEP` leaves at each index (R165). -/
theorem sweepAll_read (c : Config) (now : Nat) (p : PendFile) (j : Nat) :
    PendFile.read (sweepAll c now p) j =
      if j < pendEntries then
        (if (PendFile.read p j).valid && expired c (PendFile.read p j).ts now then ⟨false, (PendFile.read p j).ts⟩ else PendFile.read p j)
      else PendFile.read p j :=
  pendLoop_read (sweepEntry c now)
    (fun e => if e.valid && expired c e.ts now then ⟨false, e.ts⟩ else e) (sweepEntry_read c now) pendEntries p j

theorem sweepAll_wf (c : Config) (now : Nat) {p : PendFile} (hp : PendFile.wf p) : PendFile.wf (sweepAll c now p) := by
  refine pendLoop_keeps _ PendFile.wf pendEntries (fun q k hk hq => ?_) p hp
  unfold sweepEntry
  simp only
  split_ifs
  · exact PendFile.write_wf _ hq hk
  · exact hq

/-- What `RESET` leaves at each index (R230). -/
theorem PendFile.clear_read (p : PendFile) (j : Nat) :
    PendFile.read (PendFile.clear p) j = if j < pendEntries then ⟨false, (PendFile.read p j).ts⟩ else PendFile.read p j := by
  refine pendLoop_read _ (fun e => ⟨false, e.ts⟩) (fun q k i => ?_) pendEntries p j
  by_cases hi : i = k
  · subst hi; simp
  · simp [hi, PendFile.read_write_other]

theorem PendFile.clear_wf {p : PendFile} (hp : PendFile.wf p) : PendFile.wf (PendFile.clear p) :=
  pendLoop_keeps _ PendFile.wf pendEntries (fun _ _ hk hq => PendFile.write_wf _ hq hk) p hp

end Sys2Proof.Machine
end

