-- ==== Sys2Proof/Laws/Exec.lean ====
section
/-! SUPPORT. What whole instructions can do: the inversions of the four host operations, of a completing byte and of the correlator; the
decoder's cases; the time arithmetic; the CRC's injectivity. -/
namespace Sys2Proof.Machine

/-! ### Codes -/

/-- The timestamp operand survives encoding and decoding. -/
theorem decodeNow_leBytes (c : Config) (now : Nat) (h : now < c.tsModulus) : decodeNow c (leBytes c.tsBytes now) = .ok now := by
  unfold decodeNow
  have := c.tsModulus_le
  rw [leBytes_length, if_neg (by omega), if_neg (by omega), leNat_leBytes, Nat.mod_eq_of_lt (a := now) (b := 256 ^ c.tsBytes) (by omega), Nat.mod_eq_of_lt h]

/-- With a width of whole bytes, a decoded timestamp fits, and its bytes are the operand. -/
theorem decodeNow_ok {c : Config} {l : List Byte} {now : Nat} (h8 : c.tsWidth % 8 = 0) (h : decodeNow c l = .ok now) :
    now < c.tsModulus ∧ leBytes c.tsBytes now = l := by
  unfold decodeNow at h
  split at h; · cases h
  split at h; · cases h
  have hlen : l.length = c.tsBytes := by omega
  have hM : c.tsModulus = 256 ^ c.tsBytes := by
    unfold Config.tsModulus Config.tsBytes
    rw [show (256 : Nat) = 2 ^ 8 from rfl, ← Nat.pow_mul]; congr 1; omega
  cases h
  have := leNat_lt l
  rw [hlen, ← hM] at this
  rw [Nat.mod_eq_of_lt this]
  exact ⟨this, by rw [← hlen, leBytes_leNat]⟩

/-- A decode key selects the row of its state and byte (R91). -/
theorem decodeKey_rxKey (f : FsmState) (b : Byte) (now : Nat) : decodeKey (rxKey f b) now = .ok (rxRow f b now) := by
  unfold decodeKey
  rw [rxKey_eq_le16, hiByte_le16, loByte_le16]
  have : (f.code.setWidth 8).toNat = f.code.toNat := by cases f <;> rfl
  rw [this, FsmState.ofCode_code]

/-- What a host transaction decodes to: one of the four operations, or an instruction that only refuses. -/
theorem decode_host_cases {c : Config} {bytes : List Byte} {i : Instr} (h : decode c (.host bytes) = .ok i) :
    (∃ b n, i = .rxByte b n) ∨ (∃ m q p n, i = .txFrame m q p n ∧ p.length < 65536) ∨ (∃ n, i = .sweep n) ∨ i = .reset ∨ (∀ s, ∃ r, exec i s = .refused r) := by
  cases bytes with
  | nil => cases h
  | cons hdr rest =>
    simp only [decode, decodeHost] at h
    split at h
    · cases rest with
      | nil => cases h
      | cons b l =>
        simp only [decodeRxByte] at h
        cases hx : decodeNow c l <;> simp [hx, Except.map] at h
        exact .inl ⟨_, _, h.symm⟩
    · unfold decodeTxFrame at h
      split at h
      · simp only at h
        split at h
        · cases h
        · rename_i m q lo hi l hlt
          cases hx : decodeNow c (l.drop (le16 lo hi).toNat) <;> simp [hx, Except.map] at h
          refine .inr (.inl ⟨_, _, _, _, h.symm, ?_⟩)
          have := (le16 lo hi).isLt
          simp; omega
      · cases h
    · cases hx : decodeNow c rest <;> simp [hx, Except.map] at h
      exact .inr (.inr (.inl ⟨_, h.symm⟩))
    · cases rest with
      | nil => simp at h; exact .inr (.inr (.inr (.inl h.symm)))
      | cons => cases h
    all_goals
      injection h with h; subst h
      exact .inr (.inr (.inr (.inr (fun s => ⟨_, rfl⟩))))

/-- The dispatch of a frame is the row that its msg_id selects (R107). -/
theorem exec_msgRow (s : State) (now : Nat) : exec (msgRow s.fMsgId now) s = dispatch now s := by
  unfold msgRow dispatch
  split <;> simp [exec, *]

/-! ### Payload, dispatch and the correlator -/

/-- The payload, where the declared length is one that exists. -/
theorem payload_some {s : State} (h : s.fLength.toNat ≤ 128) : s.payload = some ((List.range s.fLength.toNat).map (Memory.read s.pbuf)) :=
  State.payload_eq_some.2 ⟨h, rfl⟩

/-- The dispatch of a kind that goes to no correlator, forwards. -/
theorem dispatchPlain_of {s : State} (hr : s.ready = true) (hm : s.hasRoom 1 = true) (hl : s.fLength.toNat ≤ 128) :
    dispatchPlain s = .next { s with evq := s.evq ++ [.frame s.fVersion s.fMsgId s.fSeq s.fLength
      ((List.range s.fLength.toNat).map (Memory.read s.pbuf))] } :=
  dispatchPlain_eq_next.2 ⟨hr, hm, _, payload_some hl, rfl⟩

/-- The dispatch of an Ack, forwards. -/
theorem ack_of {s : State} (now : Nat) (hr : s.ready = true) (hm : s.hasRoom 2 = true) (hl : s.fLength.toNat ≤ 128) :
    execMsgAck now s = .next (ackCorrelate now { s with evq := s.evq ++ [.frame s.fVersion s.fMsgId s.fSeq s.fLength
      ((List.range s.fLength.toNat).map (Memory.read s.pbuf))] }) :=
  execMsgAck_eq_next.2 ⟨hr, hm, _, payload_some hl, rfl⟩

/-- Dispatch completes where the payload exists and `evq` has room for two events. -/
theorem dispatch_total {s : State} (now : Nat) (hr : s.ready = true) (hm : s.hasRoom 2 = true) (hl : s.fLength.toNat ≤ 128) :
    ∃ t, dispatch now s = .next t := by
  rw [dispatch_eq]
  split_ifs
  · exact ⟨_, ack_of now hr hm hl⟩
  · exact ⟨_, dispatchPlain_of hr (State.hasRoom_mono (by omega) hm) hl⟩

/-- `tsSub` is the one time that elapses from `ts` to `now`. -/
theorem tsSub_spec (c : Config) (ts now : Nat) : elapsesTo c ts (tsSub c now ts) now ∧ ∀ r, elapsesTo c ts r now → r = tsSub c now ts := by
  unfold elapsesTo tsSub tsTrunc
  have hM : 0 < c.tsModulus := Nat.two_pow_pos _
  generalize c.tsModulus = M at *
  have h1 := Nat.mod_lt now hM
  have h2 := Nat.mod_lt ts hM
  refine ⟨⟨Nat.mod_lt _ hM, ?_⟩, fun r ⟨hr, he⟩ => ?_⟩
  · rw [Nat.add_mod_mod, ← Nat.mod_add_mod]
    have : ts % M + (now % M + (M - ts % M)) = now % M + M := by omega
    rw [this]; simp
  · have hrM : r % M = r := Nat.mod_eq_of_lt hr
    rw [← he, ← Nat.mod_add_mod ts M r]
    by_cases hlt : ts % M + r < M
    · rw [Nat.mod_eq_of_lt hlt]
      have : ts % M + r + (M - ts % M) = r + M := by omega
      rw [this]; simp [hrM]
    · have : (ts % M + r) % M = ts % M + r - M := by
        rw [Nat.mod_eq_sub_mod (by omega), Nat.mod_eq_of_lt (by omega)]
      rw [this]
      have : ts % M + r - M + (M - ts % M) = r := by omega
      rw [this, hrM]

/-- The written entry of `PEND`. -/
theorem pendAt_writePend_same (s : State) (k : Byte) (e : PendEntry) : (s.writePend k e).pendAt k = e := by
  simp [State.pendAt]

/-- Every other entry of `PEND`. -/
theorem pendAt_writePend_other (s : State) {k j : Byte} (e : PendEntry) (h : j ≠ k) : (s.writePend k e).pendAt j = s.pendAt j := by
  simp only [State.pendAt, State.writePend_pend]
  exact PendFile.read_write_other _ _ (fun h' => h (BitVec.eq_of_toNat_eq h'))

/-- What the correlator can change: one event, one entry, nothing else. -/
theorem ack_frame (now : Nat) (s : State) : (ackCorrelate now s).txq = s.txq ∧ s.sameParser (ackCorrelate now s) ∧ s.sameModel (ackCorrelate now s) ∧
   ((ackCorrelate now s).evq = s.evq ∨ ∃ r c u w, (ackCorrelate now s).evq = s.evq ++ [.rtt s.fSeq r c u w] ∧ 2 ≤ s.fLength.toNat ∧ (s.pendAt s.fSeq).valid = true) ∧
   (∀ k, (ackCorrelate now s).pendAt k ≠ s.pendAt k → k = s.fSeq ∧ (s.pendAt k).valid = true ∧ (ackCorrelate now s).pendAt k = ⟨false, (s.pendAt k).ts⟩) := by
  rcases ackCorrelate_cases now s with ⟨e, _⟩ | ⟨h2, hv, _, e⟩ | ⟨h2, hv, _, e⟩ <;> rw [e]
  · exact ⟨rfl, ⟨rfl,rfl,rfl,rfl,rfl,rfl,rfl,rfl⟩, ⟨rfl,rfl,rfl,rfl⟩, .inl rfl, fun k h => absurd rfl h⟩
  · refine ⟨rfl, ⟨rfl,rfl,rfl,rfl,rfl,rfl,rfl,rfl⟩, ⟨rfl,rfl,rfl,rfl⟩, .inl rfl, fun k h => ?_⟩
    by_cases hk : k = s.fSeq
    · subst hk; exact ⟨rfl, hv, pendAt_writePend_same _ _ _⟩
    · exact absurd (pendAt_writePend_other _ _ hk) h
  · refine ⟨rfl, ⟨rfl,rfl,rfl,rfl,rfl,rfl,rfl,rfl⟩, ⟨rfl,rfl,rfl,rfl⟩, .inr ⟨_, _, _, _, rfl, h2, hv⟩, fun k h => ?_⟩
    by_cases hk : k = s.fSeq
    · subst hk; exact ⟨rfl, hv, pendAt_writePend_same _ _ _⟩
    · exact absurd (pendAt_writePend_other _ _ hk) h

/-- The four ends of a candidate frame (R105, R107, R108). -/
theorem conclude_cases {s u : State} {p : List Byte} {now : Nat} (hp : s.payload = some p) (h : concludeFrame (validate s p) now s = .next u) :
   (crc16 (s.span p) ≠ s.fCrcRx ∧ u = s.emit (.diag .crcMismatch s.fCrcRx (crc16 (s.span p)))) ∨
   (crc16 (s.span p) = s.fCrcRx ∧ s.fVersion ≠ protoVersion ∧ u = s.emit (.diag .versionMismatch (zext16 s.fVersion) (zext16 protoVersion))) ∨
   (crc16 (s.span p) = s.fCrcRx ∧ s.fVersion = protoVersion ∧ s.fMsgId ≠ ackMsgId ∧ u = s.emit (.frame s.fVersion s.fMsgId s.fSeq s.fLength p)) ∨
   (crc16 (s.span p) = s.fCrcRx ∧ s.fVersion = protoVersion ∧ s.fMsgId = ackMsgId ∧ u = ackCorrelate now (s.emit (.frame s.fVersion s.fMsgId s.fSeq s.fLength p))) := by
  rcases validate_cases s p with ⟨hc, hv⟩ | ⟨hc, hver, hv⟩ | ⟨hc, hver, hv⟩ <;> rw [hv] at h <;> simp only [concludeFrame] at h
  · cases h; exact .inl ⟨hc, rfl⟩
  · cases h; exact .inr (.inl ⟨hc, hver, rfl⟩)
  · rw [dispatch_eq] at h
    split at h <;> rename_i ha
    · obtain ⟨_, _, q, hq, rfl⟩ := execMsgAck_eq_next.1 h
      rw [hp] at hq; cases hq
      exact .inr (.inr (.inr ⟨hc, hver, ha, rfl⟩))
    · obtain ⟨_, _, q, hq, rfl⟩ := dispatchPlain_eq_next.1 h
      rw [hp] at hq; cases hq
      exact .inr (.inr (.inl ⟨hc, hver, ha, rfl⟩))

/-! ### The host operations, by their next states -/

/-- The three ends of `TX_FRAME` (R180, R182, R183). -/
theorem tx_cases {m q : Byte} {p : List Byte} {n : Nat} {s t : State} (h : exec (.txFrame m q p n) s = .next t) :
    s.ready = true ∧ s.hasRoom 1 = true ∧
    ((128 < p.length ∧ t = s.raiseDiag .txLengthReject (BitVec.ofNat 16 p.length) (BitVec.ofNat 16 maxLen)) ∨
     (p.length ≤ 128 ∧ s.link = true ∧ t = txRecord q n (s.txout (encodeFrame m q p))) ∨
     (p.length ≤ 128 ∧ s.link = false ∧ t = (s.txout (encodeFrame m q p)).raiseDiag .txWriteFail (zext16 q) (zext16 m))) := by
  obtain ⟨hr, e⟩ := whenReady_eq_next.1 h
  obtain ⟨hm, e⟩ := whenRoom_eq_next.1 e
  refine ⟨hr, hm, ?_⟩
  simp only at e
  split at e <;> rename_i hl <;> simp only [lengthOverflows, decide_eq_true_eq, Nat.not_lt] at hl
  · cases e; exact .inl ⟨hl, rfl⟩
  · split at e <;> rename_i hk <;> cases e
    · exact .inr (.inl ⟨hl, by simpa using hk, rfl⟩)
    · exact .inr (.inr ⟨hl, by simpa using hk, rfl⟩)

/-- What `RX.ReadCrcHi` leaves (R131). -/
theorem crcHi_cases {s t : State} {b : Byte} {n : Nat} (h : exec (.rxReadCrcHi b n) s = .next t) :
   ∃ p u, s.ready = true ∧ s.payload = some p ∧ t = u.parserReset ∧
   let v := s.setCrcRx (s.fCrcRx ||| (zext16 b <<< 8))
   let c := crc16 (s.span p)
   ((c ≠ v.fCrcRx ∧ u = v.emit (.diag .crcMismatch v.fCrcRx c)) ∨
   (c = v.fCrcRx ∧ s.fVersion ≠ protoVersion ∧ u = v.emit (.diag .versionMismatch (zext16 s.fVersion) (zext16 protoVersion))) ∨
   (c = v.fCrcRx ∧ s.fVersion = protoVersion ∧ s.fMsgId ≠ ackMsgId ∧ u = v.emit (.frame s.fVersion s.fMsgId s.fSeq s.fLength p)) ∨
   (c = v.fCrcRx ∧ s.fVersion = protoVersion ∧ s.fMsgId = ackMsgId ∧ u = ackCorrelate n (v.emit (.frame s.fVersion s.fMsgId s.fSeq s.fLength p)))) := by
  obtain ⟨hr, hm, p, u, hpl, hu, rfl⟩ := execRxReadCrcHi_eq_next.1 h
  exact ⟨p, u, hr, hpl, rfl, conclude_cases hpl hu⟩

/-- What `RX_BYTE` leaves, by the parser state (R122 to R131). -/
theorem rx_cases {s t : State} {b : Byte} {n : Nat} (h : exec (.rxByte b n) s = .next t) :
    s.ready = true ∧
    ((s.fsm = .waitSync0 ∧ (t = s ∨ t = s.setFsm .waitSync1)) ∨
    (s.fsm = .waitSync1 ∧ (t = s.setFsm .readVersion ∨ t = s.setFsm .waitSync0 ∨ (s.cfg.sync1Replay = true ∧ b = sync0 ∧ t = s.setFsm .waitSync1))) ∨
    (s.fsm = .readVersion ∧ t = (s.setVersion b).setFsm .readLenLo) ∨
    (s.fsm = .readLenLo ∧ t = (s.setLength (zext16 b)).setFsm .readLenHi) ∨
    (s.fsm = .readLenHi ∧ t = ((s.setLength (s.fLength ||| (zext16 b <<< 8))).setCount 0).setFsm .readMsgId) ∨
    (s.fsm = .readLenHi ∧ t = ((s.setLength (s.fLength ||| (zext16 b <<< 8))).raiseDiag .lengthOverflow (s.fLength ||| (zext16 b <<< 8)) 0).parserReset) ∨
    (s.fsm = .readMsgId ∧ t = (s.setMsgId b).setFsm .readSeq) ∨
    (s.fsm = .readSeq ∧ t = (s.setSeq b).setFsm (if s.fLength = 0 then .readCrcLo else .readPayload)) ∨
    (s.fsm = .readPayload ∧ s.pCount.toNat < 128 ∧ ∃ f, (f = .readCrcLo ∨ f = .readPayload) ∧ t = ((s.writePbuf s.pCount.toNat b).setCount (s.pCount + 1)).setFsm f) ∨
    (s.fsm = .readCrcLo ∧ t = (s.setCrcRx (zext16 b)).setFsm .readCrcHi) ∨
    (s.fsm = .readCrcHi ∧ exec (.rxReadCrcHi b n) s = .next t)) := by
  simp only [exec, execRxByte] at h
  cases hf : s.fsm <;> simp only [hf] at h <;> simp only [reduceCtorEq, false_and, true_and, false_or, or_false]
  · split_ifs at h <;> obtain ⟨hr, e⟩ := whenReady_eq_next.1 h <;> cases e
    · exact ⟨hr, .inr rfl⟩
    · exact ⟨hr, .inl (by simp [stWaitSync0, *])⟩
  · split_ifs at h with h1 h2 <;> obtain ⟨hr, e⟩ := whenReady_eq_next.1 h <;> cases e
    · exact ⟨hr, .inl rfl⟩
    · refine ⟨hr, ?_⟩
      simp only [stWaitSync1Other, stWaitSync0]
      cases hc : s.cfg.sync1Replay <;> simp [hc, h2, State.setFsm]
    · refine ⟨hr, ?_⟩
      simp only [stWaitSync1Other, stWaitSync0]
      cases hc : s.cfg.sync1Replay <;> simp [hc, h2, State.setFsm]
  · obtain ⟨hr, e⟩ := whenReady_eq_next.1 h; cases e; exact ⟨hr, rfl⟩
  · obtain ⟨hr, e⟩ := whenReady_eq_next.1 h; cases e; exact ⟨hr, rfl⟩
  · obtain ⟨hr, e⟩ := whenReady_eq_next.1 h
    obtain ⟨_, e⟩ := whenRoom_eq_next.1 e
    refine ⟨hr, ?_⟩
    simp only at e
    split at e <;> cases e
    · exact .inr rfl
    · exact .inl rfl
  · obtain ⟨hr, e⟩ := whenReady_eq_next.1 h; cases e; exact ⟨hr, rfl⟩
  · obtain ⟨hr, e⟩ := whenReady_eq_next.1 h; cases e; exact ⟨hr, rfl⟩
  · obtain ⟨hr, e⟩ := whenReady_eq_next.1 h
    refine ⟨hr, ?_⟩
    split at e
    · rename_i hlt
      cases e
      refine ⟨hlt, if ((s.writePbuf s.pCount.toNat b).setCount (s.pCount + 1#8)).payloadComplete then .readCrcLo else .readPayload, by split_ifs <;> simp, ?_⟩
      split_ifs
      · rfl
      · simp [State.setFsm, State.setCount, State.writePbuf, ← hf]
    · cases e
  · obtain ⟨hr, e⟩ := whenReady_eq_next.1 h; cases e; exact ⟨hr, rfl⟩
  · exact ⟨(whenReady_eq_next.1 h).1, h⟩
  all_goals cases h

/-! ### Streams -/

/-- A stream in two parts. -/
theorem stream_append (xs ys : List (Byte × Nat)) (s : State) : rxStream (xs ++ ys) s = andThen (rxStream xs s) (rxStream ys) := by
  induction xs generalizing s with
  | nil => rfl
  | cons x xs ih => simp only [List.cons_append, rxStream, andThen_assoc]; congr 1; funext t; exact ih t

/-- A stream whose first byte completes. -/
theorem stream_step {b : Byte} {n : Nat} {s t : State} (h : exec (.rxByte b n) s = .next t) (xs : List (Byte × Nat)) :
    rxStream ((b, n) :: xs) s = rxStream xs t := by simp only [rxStream, h, andThen_next]

/-! ### Canonical stores and the CRC -/

/-- Stores in canonical form with the same reads are equal. -/
theorem store_ext {α} [DecidableEq α] {d : α} {n} {a b : List (Nat × α)} (ha : storeWf d n a) (hb : storeWf d n b)
    (h : ∀ i, storeRead d a i = storeRead d b i) : a = b := by
  have lt_read : ∀ (l : List (Nat × α)) (i : Nat), (∀ c ∈ l, i < c.1) → storeRead d l i = d := by
    intro l i hl
    induction l with
    | nil => rfl
    | cons c l ih =>
      have := hl c (by simp)
      simp only [storeRead]
      rw [if_neg (by omega), ih (fun c' h' => hl c' (by simp [h']))]
  induction a generalizing b with
  | nil =>
    cases b with
    | nil => rfl
    | cons c l =>
      have := h c.1
      simp [storeRead] at this
      exact absurd this.symm (hb.2 c (by simp)).2
  | cons c l ih =>
    cases b with
    | nil =>
      have := h c.1
      simp [storeRead] at this
      exact absurd this (ha.2 c (by simp)).2
    | cons e m =>
      obtain ⟨hc1, hl1⟩ := List.pairwise_cons.1 ha.1
      obtain ⟨he1, hm1⟩ := List.pairwise_cons.1 hb.1
      have hcd := (ha.2 c (by simp)).2
      have hed := (hb.2 e (by simp)).2
      have hk : c.1 = e.1 := by
        rcases Nat.lt_trichotomy c.1 e.1 with hlt | heq | hgt
        · exfalso; have := h c.1
          rw [lt_read (e :: m) c.1 (by intro x hx; rcases List.mem_cons.1 hx with rfl | hx; exact hlt; exact Nat.lt_trans hlt (he1 x hx))] at this
          simp [storeRead] at this; exact hcd this
        · exact heq
        · exfalso; have := h e.1
          rw [lt_read (c :: l) e.1 (by intro x hx; rcases List.mem_cons.1 hx with rfl | hx; exact hgt; exact Nat.lt_trans hgt (hc1 x hx))] at this
          simp [storeRead] at this; exact hed this.symm
      have hv : c.2 = e.2 := by have := h c.1; simpa [storeRead, hk] using this
      have : c = e := Prod.ext hk hv
      subst this
      congr 1
      refine ih ⟨hl1, fun x hx => ha.2 x (by simp [hx])⟩ ⟨hm1, fun x hx => hb.2 x (by simp [hx])⟩ (fun i => ?_)
      have := h i
      simp only [storeRead] at this
      split at this
      · rename_i hi; subst hi
        rw [lt_read l _ hc1, lt_read m _ he1]
      · exact this

/-- One turn of the CRC loop loses nothing. -/
theorem crcBit_inj (a b : Half) (h : crcBit a = crcBit b) : a = b := by
  have aux : ∀ c : Half, (crcBit c).getLsbD 0 = c.msb := by
    intro c; unfold crcBit; split <;> simp_all [crcPoly]
  have hm : a.msb = b.msb := by rw [← aux a, ← aux b, h]
  have hs : a <<< 1 = b <<< 1 := by
    unfold crcBit at h
    rw [hm] at h
    split at h
    · have := congrArg (· ^^^ crcPoly) h
      simpa [BitVec.xor_assoc] using this
    · exact h
  apply BitVec.eq_of_toNat_eq
  have h1 := congrArg BitVec.toNat hs
  simp only [BitVec.toNat_shiftLeft, Nat.shiftLeft_eq] at h1
  have h2 := hm
  rw [BitVec.msb_eq_decide, BitVec.msb_eq_decide] at h2
  have ha := a.isLt
  have hb := b.isLt
  have h2' : (2 ^ (16-1) ≤ a.toNat) ↔ (2 ^ (16-1) ≤ b.toNat) := by simpa using h2
  omega

/-- For one byte, the CRC step loses nothing of the register. -/
theorem crcStep_inj_left (x : Byte) (a b : Half) (h : crcStep a x = crcStep b x) : a = b := by
  have := (Function.Injective.iterate (f := crcBit) (fun _ _ h => crcBit_inj _ _ h) 8) h
  have := congrArg (· ^^^ (zext16 x <<< 8)) this
  simpa [BitVec.xor_assoc] using this

/-- For one register, the CRC step loses nothing of the byte. -/
theorem crcStep_inj_right (c : Half) (x y : Byte) (h : crcStep c x = crcStep c y) : x = y := by
  have := (Function.Injective.iterate (f := crcBit) (fun _ _ h => crcBit_inj _ _ h) 8) h
  have := congrArg (c ^^^ ·) this
  simp only [← BitVec.xor_assoc, BitVec.xor_self, BitVec.zero_xor] at this
  apply BitVec.eq_of_toNat_eq
  have h1 := congrArg BitVec.toNat this
  simp only [BitVec.toNat_shiftLeft, toNat_zext16, Nat.shiftLeft_eq] at h1
  have := x.isLt; have := y.isLt; omega

/-- Folding a span loses nothing of the register. -/
theorem crcFold_inj (l : List Byte) (a b : Half) (h : l.foldl crcStep a = l.foldl crcStep b) : a = b := by
  induction l generalizing a b with
  | nil => exact h
  | cons x l ih => exact crcStep_inj_left x a b (ih _ _ h)

end Sys2Proof.Machine
end

