-- ==== Sys2Proof/Laws/PerInstr.lean ====
section
/-! SUPPORT. The statements made about every instruction: the code of an instruction lies in its row of spec/opcode_table.json. -/

namespace Sys2Proof.Laws.RowOfTable

/-- The word that the table matches, in the code of the instruction, has the fixed bits of the instruction's row. -/
def Statement (i : Instr) : Prop := ∀ c : Config, i.row.holds (encode c i).word = true

theorem rxKey_word (f : FsmState) (b : Byte) :
    (rxKey f b).toNat &&& 0xFF00 = 256 * f.code.toNat := by
  have h : ∀ f ∈ fsmStates, ∀ b : Byte, (rxKey f b).toNat &&& 0xFF00 = 256 * f.code.toNat := by decide
  exact h f (by cases f <;> simp [fsmStates]) b

theorem rxByte (b : Byte) (now : Nat) : Statement (.rxByte b now) := by
  intro c
  change TableRow.holds ⟨0xFF, 0x10⟩ 0x10 = true
  decide
theorem txFrame (msgId : Byte) (seq : Byte) (payload : List Byte) (now : Nat) : Statement (.txFrame msgId seq payload now) := by
  intro c
  change TableRow.holds ⟨0xFF, 0x20⟩ 0x20 = true
  decide
theorem sweep (now : Nat) : Statement (.sweep now) := by
  intro c
  change TableRow.holds ⟨0xFF, 0x30⟩ 0x30 = true
  decide
theorem reset : Statement .reset := by
  intro c
  change TableRow.holds ⟨0xFF, 0xF0⟩ 0xF0 = true
  decide
theorem reservedOp0 : Statement .reservedOp0 := by
  intro c
  change TableRow.holds ⟨0xFF, 0x00⟩ 0x00 = true
  decide
theorem reservedOp4 : Statement .reservedOp4 := by
  intro c
  change TableRow.holds ⟨0xFF, 0x40⟩ 0x40 = true
  decide
theorem reservedOp5 : Statement .reservedOp5 := by
  intro c
  change TableRow.holds ⟨0xFF, 0x50⟩ 0x50 = true
  decide
theorem reservedOp6 : Statement .reservedOp6 := by
  intro c
  change TableRow.holds ⟨0xFF, 0x60⟩ 0x60 = true
  decide
theorem reservedOp7 : Statement .reservedOp7 := by
  intro c
  change TableRow.holds ⟨0xFF, 0x70⟩ 0x70 = true
  decide
theorem reservedOp8 : Statement .reservedOp8 := by
  intro c
  change TableRow.holds ⟨0xFF, 0x80⟩ 0x80 = true
  decide
theorem reservedOp9 : Statement .reservedOp9 := by
  intro c
  change TableRow.holds ⟨0xFF, 0x90⟩ 0x90 = true
  decide
theorem reservedOpA : Statement .reservedOpA := by
  intro c
  change TableRow.holds ⟨0xFF, 0xA0⟩ 0xA0 = true
  decide
theorem reservedOpB : Statement .reservedOpB := by
  intro c
  change TableRow.holds ⟨0xFF, 0xB0⟩ 0xB0 = true
  decide
theorem reservedOpC : Statement .reservedOpC := by
  intro c
  change TableRow.holds ⟨0xFF, 0xC0⟩ 0xC0 = true
  decide
theorem reservedOpD : Statement .reservedOpD := by
  intro c
  change TableRow.holds ⟨0xFF, 0xD0⟩ 0xD0 = true
  decide
theorem reservedOpE : Statement .reservedOpE := by
  intro c
  change TableRow.holds ⟨0xFF, 0xE0⟩ 0xE0 = true
  decide
theorem reservedHdr (hdr : Byte) : Statement (.reservedHdr hdr) := by
  intro c
  simp [Instr.row, TableRow.holds]
theorem rxWaitSync0Sync0 : Statement .rxWaitSync0Sync0 := by
  intro c
  change TableRow.holds ⟨0xFFFF, 0x0055⟩ 0x0055 = true
  decide
theorem rxWaitSync0Other (b : Byte) : Statement (.rxWaitSync0Other b) := by
  intro c
  simp [Instr.row, encode, Code.word, TableRow.holds, rxKey_word, FsmState.code]
theorem rxWaitSync1Sync1 : Statement .rxWaitSync1Sync1 := by
  intro c
  change TableRow.holds ⟨0xFFFF, 0x01AA⟩ 0x01AA = true
  decide
theorem rxWaitSync1Sync0Replay : Statement .rxWaitSync1Sync0Replay := by
  intro c
  change TableRow.holds ⟨0xFFFF, 0x0155⟩ 0x0155 = true
  decide
theorem rxWaitSync1Other (b : Byte) : Statement (.rxWaitSync1Other b) := by
  intro c
  simp [Instr.row, encode, Code.word, TableRow.holds, rxKey_word, FsmState.code]
theorem rxReadVersion (b : Byte) : Statement (.rxReadVersion b) := by
  intro c
  simp [Instr.row, encode, Code.word, TableRow.holds, rxKey_word, FsmState.code]
theorem rxReadLenLo (b : Byte) : Statement (.rxReadLenLo b) := by
  intro c
  simp [Instr.row, encode, Code.word, TableRow.holds, rxKey_word, FsmState.code]
theorem rxReadLenHi (b : Byte) : Statement (.rxReadLenHi b) := by
  intro c
  simp [Instr.row, encode, Code.word, TableRow.holds, rxKey_word, FsmState.code]
theorem rxReadMsgId (b : Byte) : Statement (.rxReadMsgId b) := by
  intro c
  simp [Instr.row, encode, Code.word, TableRow.holds, rxKey_word, FsmState.code]
theorem rxReadSeq (b : Byte) : Statement (.rxReadSeq b) := by
  intro c
  simp [Instr.row, encode, Code.word, TableRow.holds, rxKey_word, FsmState.code]
theorem rxReadPayload (b : Byte) : Statement (.rxReadPayload b) := by
  intro c
  simp [Instr.row, encode, Code.word, TableRow.holds, rxKey_word, FsmState.code]
theorem rxReadCrcLo (b : Byte) : Statement (.rxReadCrcLo b) := by
  intro c
  simp [Instr.row, encode, Code.word, TableRow.holds, rxKey_word, FsmState.code]
theorem rxReadCrcHi (b : Byte) (now : Nat) : Statement (.rxReadCrcHi b now) := by
  intro c
  simp [Instr.row, encode, Code.word, TableRow.holds, rxKey_word, FsmState.code]
theorem rxInvalidFsmA (b : Byte) : Statement (.rxInvalidFsmA b) := by
  intro c
  simp [Instr.row, encode, Code.word, TableRow.holds, rxKey_word, FsmState.code]
theorem rxInvalidFsmB (b : Byte) : Statement (.rxInvalidFsmB b) := by
  intro c
  simp [Instr.row, encode, Code.word, TableRow.holds, rxKey_word, FsmState.code]
theorem rxInvalidFsmC (b : Byte) : Statement (.rxInvalidFsmC b) := by
  intro c
  simp [Instr.row, encode, Code.word, TableRow.holds, rxKey_word, FsmState.code]
theorem rxInvalidFsmD (b : Byte) : Statement (.rxInvalidFsmD b) := by
  intro c
  simp [Instr.row, encode, Code.word, TableRow.holds, rxKey_word, FsmState.code]
theorem rxInvalidFsmE (b : Byte) : Statement (.rxInvalidFsmE b) := by
  intro c
  simp [Instr.row, encode, Code.word, TableRow.holds, rxKey_word, FsmState.code]
theorem rxInvalidFsmF (b : Byte) : Statement (.rxInvalidFsmF b) := by
  intro c
  simp [Instr.row, encode, Code.word, TableRow.holds, rxKey_word, FsmState.code]
theorem msgControlCmd : Statement .msgControlCmd := by
  intro c
  change TableRow.holds ⟨0xFF, 0x10⟩ 0x10 = true
  decide
theorem msgImu : Statement .msgImu := by
  intro c
  change TableRow.holds ⟨0xFF, 0x20⟩ 0x20 = true
  decide
theorem msgWheel : Statement .msgWheel := by
  intro c
  change TableRow.holds ⟨0xFF, 0x21⟩ 0x21 = true
  decide
theorem msgSensor : Statement .msgSensor := by
  intro c
  change TableRow.holds ⟨0xFF, 0x22⟩ 0x22 = true
  decide
theorem msgAck (now : Nat) : Statement (.msgAck now) := by
  intro c
  change TableRow.holds ⟨0xFF, 0x24⟩ 0x24 = true
  decide
theorem msgUnknown (id : Byte) : Statement (.msgUnknown id) := by
  intro c
  simp [Instr.row, TableRow.holds]

end Sys2Proof.Laws.RowOfTable
end

