-- ==== Sys2Proof/Tests/Slice0.lean ====
section
/-! SUPPORT. The tests: ill-formed terms that `Instr.wf` refuses; a word for every row, written out from the spec's encoding of it; one
step at a time on small states, with the results of 95_test_vectors.md; for every obligation with hypotheses, a state that meets them. -/
namespace Sys2Proof.Tests
open Sys2Proof Sys2Proof.Machine

/-! ### Ill-formed terms: one for each check of `Instr.wf` -/

theorem test_wf_rxByte_time : Instr.wf Config.default (.rxByte 0x55#8 (2 ^ 32)) = false := by decide
theorem test_wf_rxByte_time_edge : Instr.wf Config.default (.rxByte 0x55#8 (2 ^ 32 - 1)) = true := by decide
theorem test_wf_txFrame_time : Instr.wf Config.default (.txFrame 0x10#8 0#8 [] (2 ^ 32)) = false := by decide
theorem test_wf_txFrame_length (p : List Byte) (h : p.length = 65536) : Instr.wf Config.default (.txFrame 0x10#8 0#8 p 0) = false := by
  simp [Instr.wf, h]
theorem test_wf_txFrame_length_edge (p : List Byte) (h : p.length = 65535) :
    Instr.wf Config.default (.txFrame 0x10#8 0#8 p 0) = true := by
  simp [Instr.wf, h]; decide
theorem test_wf_sweep_time : Instr.wf Config.default (.sweep (2 ^ 32)) = false := by decide
theorem test_wf_reservedHdr : Instr.wf Config.default (.reservedHdr 0x40#8) = false := by decide
theorem test_wf_waitSync0Other : Instr.wf Config.default (.rxWaitSync0Other 0x55#8) = false := by decide
theorem test_wf_waitSync1Other_sync1 : Instr.wf Config.default (.rxWaitSync1Other 0xAA#8) = false := by decide
theorem test_wf_waitSync1Other_sync0 : Instr.wf Config.default (.rxWaitSync1Other 0x55#8) = false := by decide
theorem test_wf_readCrcHi_time : Instr.wf Config.default (.rxReadCrcHi 0#8 (2 ^ 32)) = false := by decide
theorem test_wf_msgAck_time : Instr.wf Config.default (.msgAck (2 ^ 32)) = false := by decide
theorem test_wf_msgUnknown :
    [0x10#8, 0x20#8, 0x21#8, 0x22#8, 0x24#8].map (fun id => Instr.wf Config.default (.msgUnknown id)) =
      [false, false, false, false, false] := by decide

/-! ### Words, written out from the encoding tables -/

/-- 30_encoding.md R80, R81 and the transactions that stand in the programs of 95_test_vectors.md section 3. -/
theorem test_decode_host :
    decode Config.default (.host [0x10#8, 0x02#8, 0xB0#8, 0x04#8, 0x00#8, 0x00#8]) = .ok (.rxByte 0x02#8 1200) ∧
    decode Config.default (.host [0x20#8, 0x10#8, 0x07#8, 0x0F#8, 0x00#8, 0x00#8, 0x00#8, 0x00#8, 0x3F#8, 0x00#8, 0x00#8, 0x00#8,
      0xBF#8, 0x01#8, 0x02#8, 0x02#8, 0x03#8, 0x01#8, 0x01#8, 0x00#8, 0xE8#8, 0x03#8, 0x00#8, 0x00#8]) =
      .ok (.txFrame 0x10#8 0x07#8 [0x00#8, 0x00#8, 0x00#8, 0x3F#8, 0x00#8, 0x00#8, 0x00#8, 0xBF#8, 0x01#8, 0x02#8, 0x02#8, 0x03#8,
        0x01#8, 0x01#8, 0x00#8] 1000) ∧
    decode Config.default (.host [0x30#8, 0x70#8, 0x17#8, 0x00#8, 0x00#8]) = .ok (.sweep 6000) ∧
    decode Config.default (.host [0xF0#8]) = .ok .reset := ⟨rfl, rfl, rfl, rfl⟩

/-- R90: the reserved op codes, and a header whose bits 3:0 are not zero. -/
theorem test_decode_reserved :
    [0x00#8, 0x40#8, 0x50#8, 0x60#8, 0x70#8, 0x80#8, 0x90#8, 0xA0#8, 0xB0#8, 0xC0#8, 0xD0#8, 0xE0#8, 0x1F#8].map
      (fun h => decodeTableWord 8 h.toNat) =
    [some .reservedOp0, some .reservedOp4, some .reservedOp5, some .reservedOp6, some .reservedOp7, some .reservedOp8,
     some .reservedOp9, some .reservedOpA, some .reservedOpB, some .reservedOpC, some .reservedOpD, some .reservedOpE,
     some (.reservedHdr 0x1F#8)] := by decide

/-- Transactions that are none of R81's: no header; a time that ends early; a byte too many; a payload that ends early. -/
theorem test_decode_malformed :
    decode Config.default (.host []) = .error .emptyTransaction ∧
    decode Config.default (.host [0x30#8, 0x70#8, 0x17#8, 0x00#8]) = .error .truncated ∧
    decode Config.default (.host [0xF0#8, 0x00#8]) = .error .trailing ∧
    decode Config.default (.host [0x20#8, 0x10#8, 0x07#8, 0x02#8, 0x00#8, 0xAB#8]) = .error .truncated ∧
    decode Config.default (.rx 0x1000#16 0) = .error (.noSuchRow 0x1000#16) := ⟨rfl, rfl, rfl, rfl, rfl⟩

/-- R91: the key is the state's code and the byte. -/
theorem test_decode_keys :
    [0x0055, 0x0054, 0x01AA, 0x0155, 0x0113, 0x0202, 0x0381, 0x0401, 0x0524, 0x0607, 0x0710, 0x08B3, 0x09B9, 0x0A00, 0x0BFF, 0x0C55,
     0x0DAA, 0x0E01, 0x0F02].map (decodeTableWord 16) =
    [some .rxWaitSync0Sync0, some (.rxWaitSync0Other 0x54#8), some .rxWaitSync1Sync1, some .rxWaitSync1Sync0Replay,
     some (.rxWaitSync1Other 0x13#8), some (.rxReadVersion 0x02#8), some (.rxReadLenLo 0x81#8), some (.rxReadLenHi 0x01#8),
     some (.rxReadMsgId 0x24#8), some (.rxReadSeq 0x07#8), some (.rxReadPayload 0x10#8), some (.rxReadCrcLo 0xB3#8),
     some (.rxReadCrcHi 0xB9#8 0), some (.rxInvalidFsmA 0x00#8), some (.rxInvalidFsmB 0xFF#8), some (.rxInvalidFsmC 0x55#8),
     some (.rxInvalidFsmD 0xAA#8), some (.rxInvalidFsmE 0x01#8), some (.rxInvalidFsmF 0x02#8)] := by decide

/-- R89: the msg_id of a validated frame. -/
theorem test_decode_kinds :
    decode Config.default (.msg 0x10#8 9) = .ok .msgControlCmd ∧ decode Config.default (.msg 0x20#8 9) = .ok .msgImu ∧
    decode Config.default (.msg 0x21#8 9) = .ok .msgWheel ∧ decode Config.default (.msg 0x22#8 9) = .ok .msgSensor ∧
    decode Config.default (.msg 0x24#8 9) = .ok (.msgAck 9) ∧ decode Config.default (.msg 0x30#8 9) = .ok (.msgUnknown 0x30#8) :=
  ⟨rfl, rfl, rfl, rfl, rfl, rfl⟩

/-! ### One step at a time: 95_test_vectors.md section 2.2 -/

/-- The state after `RESET` with the parser in `f`. -/
def inState (f : FsmState) : State := { State.reset with fsm := f }

/-- The Ack frame of CRC-11 received up to its first CRC byte. -/
def ackReceived : State :=
  { State.reset with fsm := .readCrcHi, fVersion := 0x01#8, fLength := 2#16, fMsgId := 0x24#8, fSeq := 0x07#8, pCount := 2#8,
                     pbuf := [(0, 0x10#8)], fCrcRx := 0x00B3#16 }

/-- The state that an instruction leaves. -/
def after (i : Instr) (s : State) : Option State := nextOf (exec i s)

/-- PA-1 and PA-3. -/
theorem test_waitSync0 :
    after (.rxByte 0x55#8 0) (inState .waitSync0) = some (inState .waitSync1) ∧
    after (.rxByte 0x00#8 0) (inState .waitSync0) = some (inState .waitSync0) := by decide

/-- PA-4 and PA-6. -/
theorem test_waitSync1 :
    after (.rxByte 0xAA#8 0) (inState .waitSync1) = some (inState .readVersion) ∧
    after (.rxByte 0x13#8 0) (inState .waitSync1) = some (inState .waitSync0) := by decide

/-- PA-5 and PA-5r. -/
theorem test_waitSync1_replay :
    after (.rxByte 0x55#8 0) (inState .waitSync1) = some (inState .waitSync0) ∧
    after (.rxByte 0x55#8 0) { inState .waitSync1 with cfg := { Config.default with sync1Replay := true } } =
      some { inState .waitSync1 with cfg := { Config.default with sync1Replay := true } } := by decide

/-- PA-7. -/
theorem test_readVersion :
    after (.rxByte 0x02#8 0) (inState .readVersion) = some { inState .readLenLo with fVersion := 0x02#8 } := by decide

/-- PA-8. -/
theorem test_readLenLo :
    (after (.rxByte 0x81#8 0) { inState .readLenLo with fVersion := 0x01#8 }).map (fun t => (t.fsm, t.fLength, t.fVersion)) =
      some (.readLenHi, 0x0081#16, 0x01#8) := by decide

/-- PA-9: a length of 128 is the longest that is taken. -/
theorem test_readLenHi_edge :
    (after (.rxByte 0x00#8 0) { inState .readLenHi with fLength := 0x0080#16 }).map (fun t => (t.fsm, t.fLength, t.pCount, t.evq)) =
      some (.readMsgId, 0x0080#16, 0#8, []) := by decide

/-- PA-10 and PA-12. -/
theorem test_readLenHi_overflow :
    after (.rxByte 0x00#8 0) { inState .readLenHi with fLength := 0x0081#16 } =
      some { State.reset with evq := [.diag .lengthOverflow 0x0081#16 0#16] } ∧
    after (.rxByte 0x01#8 0) { inState .readLenHi with fLength := 0x0080#16 } =
      some { State.reset with evq := [.diag .lengthOverflow 0x0180#16 0#16] } := by decide

/-- PA-14. -/
theorem test_readMsgId :
    (after (.rxByte 0x24#8 0) { inState .readMsgId with fLength := 2#16 }).map (fun t => (t.fsm, t.fMsgId)) =
      some (.readSeq, 0x24#8) := by decide

/-- PA-15 and PA-16. -/
theorem test_readSeq :
    (after (.rxByte 0x07#8 0) { inState .readSeq with fLength := 2#16 }).map (fun t => (t.fsm, t.fSeq)) =
      some (.readPayload, 0x07#8) ∧
    (after (.rxByte 0x07#8 0) (inState .readSeq)).map (fun t => (t.fsm, t.fSeq)) = some (.readCrcLo, 0x07#8) := by decide

/-- PA-17. -/
theorem test_readPayload :
    (after (.rxByte 0x10#8 0) { inState .readPayload with fLength := 2#16 }).map (fun t => (t.fsm, t.pbuf, t.pCount)) =
      some (.readPayload, [(0, 0x10#8)], 1#8) := by decide

/-- PA-18. -/
theorem test_readPayload_last :
    (after (.rxByte 0x00#8 0) { inState .readPayload with fLength := 2#16, pCount := 1#8, pbuf := [(1, 0xFF#8)] }).map
      (fun t => (t.fsm, t.pbuf, t.pCount)) = some (.readCrcLo, [], 2#8) := by decide

/-- PA-20. -/
theorem test_readCrcLo :
    (after (.rxByte 0xB3#8 0) (inState .readCrcLo)).map (fun t => (t.fsm, t.fCrcRx)) = some (.readCrcHi, 0x00B3#16) := by decide

set_option maxRecDepth 20000 in
/-- PA-21. -/
theorem test_readCrcHi :
    (after (.rxByte 0xB9#8 1500) ackReceived).map (fun t => (t.fsm, t.fLength, t.evq)) =
      some (.waitSync0, 0#16, [.frame 0x01#8 0x24#8 0x07#8 2#16 [0x10#8, 0x00#8]]) := by decide

set_option maxRecDepth 20000 in
/-- PA-22. -/
theorem test_readCrcHi_mismatch :
    (after (.rxByte 0xBA#8 1500) ackReceived).map (fun t => (t.fsm, t.evq)) =
      some (.waitSync0, [.diag .crcMismatch 0xBAB3#16 0xB9B3#16]) := by decide

set_option maxRecDepth 20000 in
/-- VA-2 and VA-3: the CRC is checked first. -/
theorem test_validation_order :
    (after (.rxByte 0x56#8 0) { inState .readCrcHi with fVersion := 0x02#8, fMsgId := 0x10#8, fCrcRx := 0x00FC#16 }).map (·.evq) =
      some [.diag .versionMismatch 0x0002#16 0x0001#16] ∧
    (after (.rxByte 0xB8#8 0) { inState .readCrcHi with fVersion := 0x02#8, fMsgId := 0x10#8, fCrcRx := 0x002E#16 }).map (·.evq) =
      some [.diag .crcMismatch 0xB82E#16 0x56FC#16] := by decide

/-! ### Dispatch and the correlator: section 2.4 -/

/-- VA-1: an unknown kind is dispatched like any other. -/
theorem test_msgUnknown :
    (after (.msgUnknown 0x30#8) { State.reset with fVersion := 0x01#8, fMsgId := 0x30#8, fSeq := 0x01#8 }).map (·.evq) =
      some [.frame 0x01#8 0x30#8 0x01#8 0#16 []] := by decide

/-- VA-4, and the same frame under the other three kinds without a correlator. -/
theorem test_msg_kinds :
    [Instr.msgControlCmd, .msgImu, .msgWheel, .msgSensor].map (fun i =>
      (after i { State.reset with fVersion := 0x01#8, fMsgId := 0x10#8 }).map (·.evq)) =
    List.replicate 4 (some [.frame 0x01#8 0x10#8 0x00#8 0#16 []]) := by decide

set_option maxRecDepth 20000 in
/-- CO-1. -/
theorem test_msgAck_matched :
    (after (.msgAck 1500) { ackReceived with pend := [(7, ⟨true, 1000⟩)] }).map (fun t => (t.evq.drop 1, (t.pendAt 7#8).valid)) =
      some ([.rtt 0x07#8 500 0x10#8 0x00#8 0x00#8], false) := by decide

set_option maxRecDepth 20000 in
/-- CO-3 and CO-7: another key; a difference that wraps. -/
theorem test_msgAck_other_and_wrap :
    (after (.msgAck 1500) { ackReceived with pend := [(8, ⟨true, 1000⟩)] }).map (fun t => (t.evq.length, t.pend)) =
      some (1, [(8, ⟨true, 1000⟩)]) ∧
    (after (.msgAck 0x00000100) { ackReceived with fSeq := 0x01#8, pend := [(1, ⟨true, 0xFFFFFF00⟩)] }).map (fun t => t.evq.drop 1) =
      some [.rtt 0x01#8 512 0x10#8 0x00#8 0x00#8] := by decide

set_option maxRecDepth 20000 in
/-- CO-8 and CO-9: the horizon itself is not expired. -/
theorem test_msgAck_expiry :
    ([5000, 5001].map fun now =>
      (after (.msgAck now)
        { ackReceived with cfg := { Config.default with ackExpiry := some 5000 }, fSeq := 0x09#8, pend := [(9, ⟨true, 0⟩)] }).map
        (fun t => (t.evq.drop 1, (t.pendAt 9#8).valid))) =
      [some ([.rtt 0x09#8 5000 0x10#8 0x00#8 0x00#8], false), some ([], false)] := by decide

/-- CO-4: a short Ack is not correlated. -/
theorem test_msgAck_short :
    (after (.msgAck 200) { ackReceived with fLength := 1#16, pCount := 1#8, pend := [(7, ⟨true, 100⟩)] }).map
      (fun t => (t.evq, t.pend)) =
      some ([.frame 0x01#8 0x24#8 0x07#8 1#16 [0x10#8]], [(7, ⟨true, 100⟩)]) := by decide

/-- CO-10, one turn of the loop for each of the two entries. -/
theorem test_sweepEntry :
    let c := { Config.default with ackExpiry := some 5000 }
    let p := [(3, ⟨true, 0⟩), (4, ⟨true, 4000⟩)]
    ((sweepEntry c 6000 p 3).read 3).valid = false ∧ sweepEntry c 6000 p 4 = p := by decide

set_option maxRecDepth 20000 in
/-- CO-10: the whole operation (an invalid entry keeps its timestamp, which no rule reads). -/
theorem test_sweep :
    (after (.sweep 6000)
      { State.reset with cfg := { Config.default with ackExpiry := some 5000 }, pend := [(3, ⟨true, 0⟩), (4, ⟨true, 4000⟩)] }).map
      (·.pend) = some [(4, ⟨true, 4000⟩)] := by decide

/-! ### Transmit: section 2.5 -/

set_option maxRecDepth 20000 in
/-- TX-2. -/
theorem test_txFrame :
    (after (.txFrame 0x24#8 0x07#8 [0x10#8, 0x00#8] 9) { State.reset with link := true }).map (fun t => (t.txq, t.evq, t.pend)) =
      some ([0x55#8, 0xAA#8, 0x01#8, 0x02#8, 0x00#8, 0x24#8, 0x07#8, 0x10#8, 0x00#8, 0xB3#8, 0xB9#8], [], [(7, ⟨true, 9⟩)]) := by decide

set_option maxRecDepth 20000 in
/-- TX-6. -/
theorem test_txFrame_fail :
    (after (.txFrame 0x10#8 0x06#8 [] 2) State.reset).map (fun t => (t.txq, t.evq, t.pend)) =
      some ([0x55#8, 0xAA#8, 0x01#8, 0x00#8, 0x00#8, 0x10#8, 0x06#8, 0xE8#8, 0xD8#8], [.diag .txWriteFail 0x0006#16 0x0010#16], []) := by
  decide

set_option maxRecDepth 20000 in
/-- TX-5. -/
theorem test_txFrame_oversize :
    (after (.txFrame 0x10#8 0x05#8 (List.replicate 129 0#8) 1) { State.reset with link := true }).map (fun t => (t.evq, t.pend)) =
      some ([.diag .txLengthReject 129#16 128#16], []) := by decide

/-! ### Reset and refusals: section 2.6 -/

/-- RS-1, but for `PEND`. -/
theorem test_reset :
    (after .reset { inState .readPayload with fLength := 2#16, pCount := 1#8, evq := [.diag .crcMismatch 1#16 2#16], txq := [0x55#8] }).map
      (fun t => (t.fsm, t.fLength, t.pCount, t.evq, t.txq)) = some (.waitSync0, 0#16, 0#8, [], []) := by decide

/-- RS-1: `PEND` is all invalid. -/
theorem test_reset_pend (k : Byte) :
    (after .reset { State.reset with pend := [(7, ⟨true, 9⟩)] }).map (fun t => (t.pendAt k).valid) = some false := by
  have h := PendFile.clear_read [(7, ⟨true, 9⟩)] k.toNat
  rw [if_pos (show k.toNat < pendEntries from k.isLt)] at h
  simp only [after, exec, execReset, nextOf, Option.map_some, State.pendAt, State.setReady_pend, State.emptyChannels_pend,
    State.setPend_pend, h]

/-- RS-2. -/
theorem test_before_reset : exec (.rxByte 0x55#8 0) { State.reset with ready := false } = .refused .beforeReset := rfl

/-- R90 and R22: what is refused, and with what name. -/
theorem test_refusals :
    exec .reservedOpE State.reset = .refused (.reservedOp 0xE#4) ∧
    exec (.reservedHdr 0x13#8) State.reset = .refused (.reservedHeader 0x13#8) ∧
    exec (.rxInvalidFsmC 0x55#8) State.reset = .refused (.invalidFsm 0xC#4) ∧
    exec (.rxByte 0x55#8 0) (inState .invalidF) = .refused (.invalidFsm 0xF#4) := ⟨rfl, rfl, rfl, rfl⟩

/-! ### The step -/

/-- A step reads the presented bytes, and takes the item off the input. -/
theorem test_step :
    nextOf (step { State.reset with input := [.op [0x10#8, 0x55#8, 0xB0#8, 0x04#8, 0x00#8, 0x00#8] true, .takeEvent] }) =
      some { inState .waitSync1 with link := true, input := [.takeEvent] } := by decide

/-- The host takes the head of each channel (R35, R36). -/
theorem test_takes :
    (nextOf (step { State.reset with evq := [.diag .crcMismatch 1#16 2#16, .diag .crcMismatch 3#16 4#16], input := [.takeEvent] })).map (·.evq) =
      some [.diag .crcMismatch 3#16 4#16] ∧
    (nextOf (step { State.reset with txq := [0x55#8, 0xAA#8], input := [.takeByte] })).map (·.txq) = some [0xAA#8] := by decide

/-- `withFetchWord` on a row of each level: a header, a decode key, a msg_id. -/
theorem test_withFetchWord :
    (nextOf (step (State.reset.withFetchWord 8 0x10))).map (·.fsm) = some .waitSync0 ∧
    (nextOf (step (State.reset.withFetchWord 16 0x01AA))).map (·.fsm) = some .readVersion ∧
    step (State.reset.withFetchWord 8 0x50) = .refused (.reservedOp 0x5#4) := ⟨rfl, rfl, rfl⟩

set_option maxRecDepth 20000 in
/-- … and the msg_id of a Wheel frame: the frame is validated and dispatched. -/
theorem test_withFetchWord_msg :
    (nextOf (step (State.reset.withFetchWord 8 0x21))).map (·.evq) = some [.frame 0x01#8 0x21#8 0x00#8 0#16 []] := by decide

/-! ### Witnesses: for every obligation with hypotheses, a state that meets them, at the edges where its clauses meet -/

theorem witness_ResetOperationKeepsUnspecifiedCells : ∃ t, exec .reset State.reset = .next t := ⟨_, rfl⟩

theorem witness_SweepAndResetAreIdempotent : PendFile.wf [(0, ⟨true, 0⟩), (7, ⟨true, 1000⟩), (255, ⟨true, 9⟩)] := by decide

/-- The codes just below and just above the bound. -/
theorem witness_ModelRefusesThreeThings :
    ({ State.reset with ready := false } : State).ready = false ∧ 9 < (inState .invalidA).fsm.code.toNat ∧
    9 < (inState .invalidF).fsm.code.toNat ∧ ¬ 9 < (inState .readCrcHi).fsm.code.toNat := by decide

/-- Both kinds of reserved header, next to the four op codes. -/
theorem witness_ReservedTransactionsAreRefused :
    (∀ hdr ∈ [0x00#8, 0x40#8, 0xE0#8], hdr ∉ [0x10#8, 0x20#8, 0x30#8, 0xF0#8] ∧ hdr &&& 0x0F#8 = 0#8) ∧
    (∀ hdr ∈ [0x01#8, 0x11#8, 0x2F#8, 0xFF#8], hdr ∉ [0x10#8, 0x20#8, 0x30#8, 0xF0#8] ∧ hdr &&& 0x0F#8 ≠ 0#8) ∧
    ({ State.reset with input := [.op [0x40#8] true] } : State).input = .op (0x40#8 :: []) true :: [] := by decide

theorem witness_OnlyResetRunsBeforeTheFirstReset :
    ({ State.reset with ready := false } : State).ready = false ∧ (Instr.rxWaitSync0Sync0) ≠ .reset := by decide

/-- The first index, and the first length, that do not exist. -/
theorem witness_AccessBeyondPbufStops :
    let s : State := { State.reset with pCount := 128#8, fLength := 129#16 }
    s.ready = true ∧ s.hasRoom 2 = true ∧ 128 ≤ s.pCount.toNat ∧ 128 < s.fLength.toNat := by decide

theorem witness_StepRunsThePresentedInstruction :
    let s : State := { State.reset with input := [.op [0x30#8, 0x70#8, 0x17#8, 0x00#8, 0x00#8] true] }
    s.input = .op [0x30#8, 0x70#8, 0x17#8, 0x00#8, 0x00#8] true :: [] ∧
    decode s.cfg (.host [0x30#8, 0x70#8, 0x17#8, 0x00#8, 0x00#8]) = .ok (.sweep 6000) := ⟨rfl, rfl⟩

theorem witness_StepIsIdleWithoutOperation : State.reset.input = [] := rfl

theorem witness_HostTakesFromTheHead :
    (let s : State := { State.reset with input := [.takeEvent], evq := [.diag .crcMismatch 1#16 2#16] }
     s.ready = true ∧ s.input = .takeEvent :: [] ∧ s.evq = .diag .crcMismatch 1#16 2#16 :: []) ∧
    (let s : State := { State.reset with input := [.takeByte], txq := [0x55#8] }
     s.ready = true ∧ s.input = .takeByte :: [] ∧ s.txq = 0x55#8 :: []) := by decide

/-- Every operand at its greatest value. -/
theorem witness_DecodingAnEncodedInstructionGivesItBack :
    Instr.wf Config.default (.rxByte 0xFF#8 (2 ^ 32 - 1)) = true ∧ Instr.wf Config.default (.txFrame 0xFF#8 0xFF#8 [0xFF#8] (2 ^ 32 - 1)) = true ∧
    Instr.wf { Config.default with tsWidth := 13 } (.sweep (2 ^ 13 - 1)) = true ∧ Instr.wf Config.default (.reservedHdr 0xFF#8) = true := by
  decide

theorem witness_EncodingADecodedInstructionGivesItBack :
    Config.default.tsWidth % 8 = 0 ∧ 2 ^ 32 - 1 < Config.default.tsModulus ∧
    decode Config.default (.host (0x30#8 :: [0xFF#8, 0xFF#8, 0xFF#8, 0xFF#8])) = .ok (.sweep (2 ^ 32 - 1)) ∧
    decode Config.default (.rx 0x09FF#16 (2 ^ 32 - 1)) = .ok (.rxReadCrcHi 0xFF#8 (2 ^ 32 - 1)) ∧
    decode Config.default (.msg 0x24#8 (2 ^ 32 - 1)) = .ok (.msgAck (2 ^ 32 - 1)) := ⟨rfl, by decide, rfl, rfl, rfl⟩

theorem witness_TimeIsReadOnlyAtFrameCompletion : (inState .readCrcLo).fsm ≠ .readCrcHi := by decide

/-- R122 to R125, R127, R128, R130: every state, with room in the channel. -/
theorem witness_ParserTransitions :
    ∀ f ∈ [FsmState.waitSync0, .waitSync1, .readVersion, .readLenLo, .readLenHi, .readMsgId, .readSeq, .readPayload, .readCrcLo, .readCrcHi],
      (inState f).ready = true ∧ (inState f).hasRoom 2 = true ∧ (inState f).fsm = f := by decide

/-- Lengths of 128 and of 129. -/
theorem witness_ReadLenHiChecksTheLengthLimit :
    let s : Nat → State := fun n => { inState .readLenHi with fLength := BitVec.ofNat 16 n }
    (∀ n ∈ [128, 129], (s n).ready = true ∧ (s n).hasRoom 1 = true ∧ (s n).fsm = .readLenHi) ∧
    ((s 128).fLength ||| ((0x00#8).setWidth 16 <<< 8)).toNat ≤ 128 ∧ 128 < ((s 129).fLength ||| ((0x00#8).setWidth 16 <<< 8)).toNat := by
  decide

/-- The last payload byte there can be. -/
theorem witness_ReadPayloadAppendsOneByte :
    let s : State := { inState .readPayload with fLength := 128#16, pCount := 127#8 }
    s.ready = true ∧ s.fsm = .readPayload ∧ s.pCount.toNat < 128 ∧ s.pCount.toNat + 1 = s.fLength.toNat := by decide

set_option maxRecDepth 20000 in
/-- The frame of VA-2 and VA-3: a wrong CRC, and a right CRC with a wrong version. -/
theorem witness_FrameThatFailsValidationIsDropped :
    let s : State := { inState .readCrcHi with fVersion := 0x02#8, fMsgId := 0x10#8, fCrcRx := 0x00FC#16 }
    s.ready = true ∧ s.hasRoom 2 = true ∧ s.fsm = .readCrcHi ∧ s.fLength.toNat ≤ 128 ∧ s.fVersion ≠ 0x01#8 ∧
    (List.range s.fLength.toNat).map (Memory.read s.pbuf) = [] ∧
    s.fCrcRx ||| ((0x56#8).setWidth 16 <<< 8) = 0x56FC#16 ∧
    crc16 ([0x02#8, loByte s.fLength, hiByte s.fLength, s.fMsgId, s.fSeq] ++ []) = 0x56FC#16 ∧
    crc16 ([0x02#8, loByte s.fLength, hiByte s.fLength, s.fMsgId, s.fSeq] ++ []) ≠ 0xB82E#16 := by decide

set_option maxRecDepth 20000 in
/-- The Ack of CRC-11. -/
theorem witness_FrameThatPassesValidationIsDispatched :
    ackReceived.ready = true ∧ ackReceived.hasRoom 2 = true ∧ ackReceived.fsm = .readCrcHi ∧ ackReceived.fLength.toNat ≤ 128 ∧
    ackReceived.fCrcRx ||| ((0xB9#8).setWidth 16 <<< 8) = 0xB9B3#16 ∧ ackReceived.fVersion = 0x01#8 ∧
    crc16 ([ackReceived.fVersion, loByte ackReceived.fLength, hiByte ackReceived.fLength, ackReceived.fMsgId, ackReceived.fSeq] ++
      (List.range ackReceived.fLength.toNat).map (Memory.read ackReceived.pbuf)) = 0xB9B3#16 := by decide

theorem witness_DispatchEmitsTheFrame :
    let s : State := { State.reset with fLength := 128#16 }
    s.ready = true ∧ s.hasRoom 1 = true ∧ s.fLength.toNat ≤ 128 := by decide

/-- CO-9, at the horizon itself; and without a horizon, over a wrap (CO-7). -/
theorem witness_MatchedAckReportsItsRoundTripTime :
    (let s : State :=
      { ackReceived with cfg := { Config.default with ackExpiry := some 5000 }, fSeq := 0x09#8, pend := [(9, ⟨true, 0⟩)] }
     s.ready = true ∧ s.hasRoom 2 = true ∧ 2 ≤ s.fLength.toNat ∧ s.fLength.toNat ≤ 128 ∧ (s.pendAt s.fSeq).valid = true ∧
     elapsesTo s.cfg (s.pendAt s.fSeq).ts 5000 5000 ∧ ∀ horizon, s.cfg.ackExpiry = some horizon → 5000 ≤ horizon) ∧
    elapsesTo Config.default 0xFFFFFF00 512 0x00000100 := by
  refine ⟨⟨rfl, rfl, by decide, by decide, rfl, ⟨by decide, rfl⟩, ?_⟩, by decide, rfl⟩
  intro horizon h
  injection h with h
  omega

/-- CO-8: one tick beyond the horizon. -/
theorem witness_ExpiredAckRemovesItsEntrySilently :
    let s : State :=
      { ackReceived with cfg := { Config.default with ackExpiry := some 5000 }, fSeq := 0x09#8, pend := [(9, ⟨true, 0⟩)] }
    s.ready = true ∧ s.hasRoom 2 = true ∧ 2 ≤ s.fLength.toNat ∧ s.fLength.toNat ≤ 128 ∧ (s.pendAt s.fSeq).valid = true ∧
    elapsesTo s.cfg (s.pendAt s.fSeq).ts 5001 5001 ∧ s.cfg.ackExpiry = some 5000 ∧ 5000 < 5001 :=
  ⟨rfl, rfl, by decide, by decide, rfl, ⟨by decide, rfl⟩, rfl, by decide⟩

/-- CO-4 (length 1, the longest that is short) and CO-3 (not pending). -/
theorem witness_ShortOrUnmatchedAckOnlyEmitsTheFrame :
    (let s : State := { ackReceived with fLength := 1#16, pend := [(7, ⟨true, 100⟩)] }
     s.ready = true ∧ s.hasRoom 2 = true ∧ s.fLength.toNat ≤ 128 ∧ s.fLength.toNat < 2) ∧
    (let s : State := { ackReceived with pend := [(8, ⟨true, 1000⟩)] }
     s.ready = true ∧ s.hasRoom 2 = true ∧ s.fLength.toNat ≤ 128 ∧ (s.pendAt s.fSeq).valid = false) := by decide

theorem witness_ExpiryComparesTheElapsedTime :
    Config.default.ackExpiry = none ∧ ({ Config.default with ackExpiry := some 5000 } : Config).ackExpiry = some 5000 := by decide

theorem witness_Sweep : State.reset.ready = true ∧ State.reset.cfg.ackExpiry = none := by decide

set_option maxRecDepth 20000 in
/-- The longest payload, with an accepting and with a failing link. -/
theorem witness_AcceptedSend_and_FailedWrite :
    State.reset.ready = true ∧ State.reset.hasRoom 1 = true ∧ State.reset.link = false ∧ ({ State.reset with link := true } : State).link = true ∧
    (List.replicate 128 0x00#8).length ≤ 128 := by decide

set_option maxRecDepth 20000 in
theorem witness_OversizePayloadIsRejected :
    State.reset.ready = true ∧ State.reset.hasRoom 1 = true ∧ 128 < (List.replicate 129 0x00#8).length ∧
    (List.replicate 129 0x00#8).length < 65536 := by decide

set_option maxRecDepth 20000 in
theorem witness_EncodedFrameHasTheWireLayout : (List.replicate 128 0x00#8).length ≤ 128 := by decide

theorem witness_SecondSendOverwritesTheFirst :
    ({ State.reset with link := true } : State).receives ∧ ({ State.reset with link := true } : State).link = true ∧
    ([] : List Byte).length ≤ 128 := ⟨⟨rfl, rfl⟩, rfl, by decide⟩

theorem witness_OneCorruptedByteChangesTheCrc : (0x00#8 : Byte) ≠ 0xFF#8 := by decide

theorem witness_IncrementalCrcAgreesWithTheSpan :
    (inState .readVersion).receives ∧ (inState .readVersion).fsm = .readVersion ∧
    ([(0x01#8, 0), (0x02#8, 1), (0x00#8, 2), (0x24#8, 3), (0x07#8, 4), (0x10#8, 5), (0x00#8, 6)] : List (Byte × Nat)).map Prod.fst =
      [0x01#8, 0x02#8, 0x00#8, 0x24#8, 0x07#8] ++ [0x10#8, 0x00#8] ∧
    (le16 0x02#8 0x00#8).toNat = [0x10#8, 0x00#8].length ∧ [0x10#8, 0x00#8].length ≤ 128 := ⟨⟨rfl, rfl⟩, rfl, rfl, rfl, by decide⟩

/-- The invariant, in a state that is not the reset state: the Ack of CRC-11, but for its last byte, with its send pending. -/
theorem witness_invariant : ({ ackReceived with pend := [(7, ⟨true, 1000⟩)] } : State).Inv where
  parser := ⟨by decide, rfl, by decide⟩
  pbuf := by decide
  pend := by decide
  stamps := by decide
  events := by simp [ackReceived, State.reset]
  depth := by simp [ackReceived, State.reset, Config.default]

/-- The same state with its last byte presented. -/
def ackCompletes : State :=
  { ackReceived with pend := [(7, ⟨true, 1000⟩)]
                     input := [.op [0x10#8, 0xB9#8, 0xDC#8, 0x05#8, 0x00#8, 0x00#8] false] }

set_option maxRecDepth 20000 in
/-- … and its step, which completes the frame. -/
theorem witness_EveryStepKeepsTheInvariant : ∃ t, step ackCompletes = .next t ∧ t.evq.length = 2 := by
  have h : (nextOf (step ackCompletes)).map (fun t => t.evq.length) = some 2 := by decide
  revert h
  cases step ackCompletes <;> simp [nextOf]

theorem witness_EveryOperationCompletes : State.reset.receives := ⟨rfl, rfl⟩

/-- The whole-machine rules speak of next states: every operation gives one from these. -/
theorem witness_next_states :
    (after (.rxByte 0x00#8 0) (inState .waitSync1)).isSome = true ∧ (inState .waitSync1).fsm.legal = true ∧
    (after (.txFrame 0x10#8 0x00#8 [] 0) State.reset).isSome = true ∧ (after (.sweep 0) State.reset).isSome = true ∧
    (after .reset State.reset).isSome = true ∧ (nextOf (step State.reset)).isSome = true ∧ State.reset.sameParser { State.reset with txq := [0#8] } :=
  ⟨rfl, rfl, rfl, rfl, rfl, rfl, rfl, rfl, rfl, rfl, rfl, rfl, rfl, rfl⟩

/-- A completing Ack changes its entry. -/
theorem witness_PendEntriesChangeOnlyInFourWays :
    (after (.msgAck 1500) { ackReceived with pend := [(7, ⟨true, 1000⟩)] }).map (fun t => t.pendAt 7#8) ≠ some ⟨true, 1000⟩ := by decide

/-- A channel of depth 1: full for one event when it holds one, and for two events when it holds none. -/
theorem witness_FullEventChannelHoldsOperationsOff :
    let c : Config := { Config.default with evqDepth := some 1 }
    ({ inState .readLenHi with cfg := c, evq := [.diag .crcMismatch 1#16 2#16] } : State).hasRoom 1 = false ∧
    ({ inState .readCrcHi with cfg := c } : State).hasRoom 2 = false ∧ ({ inState .readCrcHi with cfg := c } : State).hasRoom 1 = true ∧
    (∀ f ∈ [FsmState.waitSync0, .waitSync1, .readVersion, .readLenLo, .readMsgId, .readSeq, .readPayload, .readCrcLo],
      let s : State := { inState f with cfg := c, evq := [.diag .crcMismatch 1#16 2#16], pCount := 127#8 }
      s.ready = true ∧ s.hasRoom 1 = false ∧ s.fsm.legal = true ∧ s.fsm ≠ .readLenHi ∧ s.fsm ≠ .readCrcHi ∧ s.pCount.toNat < 128) := by
  decide

theorem witness_FrameIsConsumedWhole :
    State.reset.receives ∧ State.reset.fsm = .waitSync0 ∧
    frameShaped 0 [0x55#8, 0xAA#8, 0x01#8, 0x00#8, 0x00#8, 0x30#8, 0x01#8, 0xE9#8, 0xAE#8] ∧
    frameShaped 128 ([0x55#8, 0xAA#8, 0x01#8, 0x80#8, 0x00#8, 0x30#8, 0x00#8] ++ List.replicate 128 0x00#8 ++ [0x79#8, 0x43#8]) ∧
    128 < (le16 0x81#8 0x00#8).toNat :=
  ⟨⟨rfl, rfl⟩, rfl, ⟨_, _, _, _, _, [], _, _, rfl, rfl, rfl⟩, ⟨_, _, _, _, _, List.replicate 128 0x00#8, _, _, rfl, rfl, by simp⟩, by decide⟩

/-- The same frame at two deliveries that differ in every time but the last. -/
theorem witness_ChunkingDoesNotChangeTheResult :
    let deliver : Nat → List (Byte × Nat) := fun n =>
      [(0x55#8, n), (0xAA#8, n), (0x01#8, n), (0x00#8, n), (0x00#8, n), (0x30#8, n), (0x01#8, n), (0xE9#8, n), (0xAE#8, 9)]
    State.reset.receives ∧ State.reset.fsm = .waitSync0 ∧ frameShaped 0 ((deliver 1).map Prod.fst) ∧
    (deliver 2).map Prod.fst = (deliver 1).map Prod.fst ∧ (deliver 2).getLast?.map Prod.snd = (deliver 1).getLast?.map Prod.snd :=
  ⟨⟨rfl, rfl⟩, rfl, ⟨_, _, _, _, _, [], _, _, rfl, rfl, rfl⟩, rfl, rfl⟩

set_option maxRecDepth 20000 in
theorem witness_EncodedFrameIsReceivedAsSent :
    State.reset.receives ∧ State.reset.fsm = .waitSync0 ∧ [0x10#8, 0x00#8].length ≤ 128 ∧
    ([(0x55#8, 9), (0xAA#8, 9), (0x01#8, 9), (0x02#8, 9), (0x00#8, 9), (0x24#8, 9), (0x07#8, 9), (0x10#8, 9), (0x00#8, 9), (0xB3#8, 9),
      (0xB9#8, 9)] : List (Byte × Nat)).map Prod.fst = encodeFrame 0x24#8 0x07#8 [0x10#8, 0x00#8] :=
  ⟨⟨rfl, rfl⟩, rfl, by decide, by decide⟩

set_option maxRecDepth 20000 in
/-- The first payload byte and the last CRC byte. -/
theorem witness_CorruptedFrameIsDroppedAndTheNextReceived :
    State.reset.receives ∧ State.reset.fsm = .waitSync0 ∧ [0x10#8, 0x00#8].length ≤ 128 ∧ 3 < [0x10#8, 0x00#8].length + 2 ∧
    (encodeFrame 0x24#8 0x07#8 [0x10#8, 0x00#8])[7 + 0]? ≠ some 0x11#8 ∧ (encodeFrame 0x24#8 0x07#8 [0x10#8, 0x00#8])[7 + 3]? ≠ some 0xB8#8 ∧
    (0x30#8 : Byte) ≠ 0x24#8 :=
  ⟨⟨rfl, rfl⟩, rfl, by decide, by decide, by decide, by decide, by decide⟩

theorem witness_StraySyncByteLosesTheMarker : (inState .waitSync1).ready = true ∧ (inState .waitSync1).fsm = .waitSync1 := by decide

end Sys2Proof.Tests
end

section
/-! The rules of a step and the scope obligations (00_scope.md). -/
namespace Sys2Proof.Machine

/-- With a transaction at the head of the input, a step is that transaction on the remaining input (R13, R76). -/
theorem step_of_op {s : State} {bytes : List Byte} {txOk : Bool} {rest : List HostAct}
    (hin : s.input = .op bytes txOk :: rest) :
    step s = stepTransaction bytes txOk { s with input := rest } := by
  simp only [step, hin]

/-- A transaction that decodes is `exec` of its instruction, with the link's answer in place (R39, R81). -/
theorem stepTransaction_of_decode {s : State} {bytes : List Byte} {i : Instr}
    (hdec : decode s.cfg (.host bytes) = .ok i) (txOk : Bool) :
    stepTransaction bytes txOk s = exec i { s with link := txOk } := by
  simp only [stepTransaction, hdec]

/-- Settles O9: a step hands the head transaction on, and taking it from the input leaves `cfg`, and so its decoding, as it was. -/
theorem stepRunsThePresentedInstruction : Obligations.StepRunsThePresentedInstruction := by
  intro s i bytes txOk rest hin hdec
  calc step s = stepTransaction bytes txOk { s with input := rest } := step_of_op hin
    _ = exec i { s with input := rest, link := txOk } := stepTransaction_of_decode (s := { s with input := rest }) hdec txOk

end Sys2Proof.Machine
end

section
/-! What a step can be, and what the host operations leave unchanged (10_state.md R21, R31, R35, R36). -/
namespace Sys2Proof.Machine

/-! ### The items of the host's input -/

/-- With a take of an event at the head of the input, a step is that take on the remaining input (R35). -/
theorem step_of_takeEvent {s : State} {rest : List HostAct} (hin : s.input = .takeEvent :: rest) :
    step s = takeEvent { s with input := rest } := by
  simp only [step, hin]

/-- With a take of a byte at the head of the input, a step is that take on the remaining input (R36). -/
theorem step_of_takeByte {s : State} {rest : List HostAct} (hin : s.input = .takeByte :: rest) :
    step s = takeByte { s with input := rest } := by
  simp only [step, hin]

theorem takeEvent_eq_next {s t : State} : takeEvent s = .next t ↔ s.ready = true ∧ t = { s with evq := s.evq.drop 1 } := by
  simp only [takeEvent, whenReady_eq_next, Host.Outcome.next.injEq, @eq_comm _ t]

theorem takeByte_eq_next {s t : State} : takeByte s = .next t ↔ s.ready = true ∧ t = { s with txq := s.txq.drop 1 } := by
  simp only [takeByte, whenReady_eq_next, Host.Outcome.next.injEq, @eq_comm _ t]

theorem stepTransaction_eq_next {bytes : List Byte} {txOk : Bool} {s t : State} :
    stepTransaction bytes txOk s = .next t ↔
      ∃ i, decode s.cfg (.host bytes) = .ok i ∧ exec i { s with link := txOk } = .next t := by
  unfold stepTransaction
  cases decode s.cfg (.host bytes) <;> simp

/-- The four kinds of step that answer a next state: idle, a take from `evq`, a take from `txq`, a transaction (R13, R220). -/
theorem step_cases {s t : State} (h : step s = .next t) :
    (s.input = [] ∧ t = s) ∨
    (∃ rest, s.input = .takeEvent :: rest ∧ s.ready = true ∧ t = { s with input := rest, evq := s.evq.drop 1 }) ∨
    (∃ rest, s.input = .takeByte :: rest ∧ s.ready = true ∧ t = { s with input := rest, txq := s.txq.drop 1 }) ∨
    (∃ bytes txOk rest i, s.input = .op bytes txOk :: rest ∧ decode s.cfg (.host bytes) = .ok i ∧
      exec i { s with input := rest, link := txOk } = .next t) := by
  cases hin : s.input with
  | nil =>
    simp only [step, hin, Host.Outcome.next.injEq] at h
    exact .inl ⟨rfl, h.symm⟩
  | cons act rest =>
    cases act with
    | op bytes txOk =>
      rw [step_of_op hin] at h
      obtain ⟨i, hdec, he⟩ := stepTransaction_eq_next.1 h
      exact .inr (.inr (.inr ⟨bytes, txOk, rest, i, rfl, hdec, he⟩))
    | takeEvent =>
      rw [step_of_takeEvent hin] at h
      exact .inr (.inl ⟨rest, rfl, takeEvent_eq_next.1 h⟩)
    | takeByte =>
      rw [step_of_takeByte hin] at h
      exact .inr (.inr (.inl ⟨rest, rfl, takeByte_eq_next.1 h⟩))

/-! ### `SWEEP`, `RESET` and `TX_FRAME` by their next states -/

theorem exec_sweep_eq_next {now : Nat} {s t : State} :
    exec (.sweep now) s = .next t ↔ s.ready = true ∧ t = s.setPend (sweepAll s.cfg now s.pend) := by
  simp only [exec, execSweep, whenReady_eq_next, Host.Outcome.next.injEq, @eq_comm _ t]

theorem exec_reset_eq_next {s t : State} :
    exec .reset s = .next t ↔ t = (s.parserReset.setPend (PendFile.clear s.pend)).emptyChannels.setReady := by
  simp only [exec, execReset, Host.Outcome.next.injEq, @eq_comm _ t]

/-- `TX_FRAME` writes no field of the parser and no field of the model's own (R21, R72). -/
theorem txFrame_frame {msgId seq : Byte} {payload : List Byte} {now : Nat} {s t : State}
    (h : exec (.txFrame msgId seq payload now) s = .next t) : s.sameParser t ∧ s.sameModel t := by
  obtain ⟨-, -, ⟨-, rfl⟩ | ⟨-, -, rfl⟩ | ⟨-, -, rfl⟩⟩ := tx_cases h <;>
    simp [State.sameParser, State.sameModel, txRecord]

/-- `SWEEP` writes no field of the parser and no field of the model's own (R21, R72). -/
theorem sweep_frame {now : Nat} {s t : State} (h : exec (.sweep now) s = .next t) : s.sameParser t ∧ s.sameModel t := by
  obtain ⟨-, rfl⟩ := exec_sweep_eq_next.1 h
  simp [State.sameParser, State.sameModel]

/-- Settles O49: each of the two operations has its frame lemma. -/
theorem transmitAndSweepLeaveTheParser : Obligations.TransmitAndSweepLeaveTheParser := by
  intro s t msgId seq payload now h
  exact h.elim txFrame_frame sweep_frame

/-- Settles O11: the take at the head of the input runs, and what it drops is the head of its channel. -/
theorem hostTakesFromTheHead : Obligations.HostTakesFromTheHead := by
  refine ⟨fun s rest e l hr hin hq => ?_, fun s rest b l hr hin hq => ?_⟩
  · rw [step_of_takeEvent hin]
    exact takeEvent_eq_next.2 ⟨hr, by rw [hq]; rfl⟩
  · rw [step_of_takeByte hin]
    exact takeByte_eq_next.2 ⟨hr, by rw [hq]; rfl⟩

end Sys2Proof.Machine
end

section
/-! The invariant of the block (10_state.md R22 to R32, 20_memory.md R60, 30_encoding.md R86 to R88, R242). It has two parts:
`State.parserFits`, about the parser's registers, and `State.DataInv`, about PBUF, PEND and the event channel. -/
namespace Sys2Proof

/-! ### Timestamps and bytes -/

theorem Config.tsModulus_pos (c : Config) : 0 < c.tsModulus := Nat.two_pow_pos _

theorem toNat_zext16_lt (b : Byte) : (zext16 b).toNat < 256 := toNat_zext16 b ▸ b.isLt

theorem zext16_injective {a b : Byte} (h : zext16 a = zext16 b) : a = b :=
  BitVec.eq_of_toNat_eq (by simpa only [toNat_zext16] using congrArg BitVec.toNat h)

end Sys2Proof

namespace Sys2Proof.Machine

/-! ### PEND: the canonical form together with the width of the timestamps -/

/-- What the invariant says of a register file `p`: canonical form (R60), timestamps of `TS_WIDTH` bits (R32). -/
structure PendFile.Fits (c : Config) (p : PendFile) : Prop where
  wf : PendFile.wf p
  stamps : ∀ e ∈ p, e.2.ts < c.tsModulus

/-- A read gives an entry of the list, or what an unlisted index reads as. -/
theorem storeRead_eq_or_mem {α : Type} (d : α) (m : List (Nat × α)) (i : Nat) :
    storeRead d m i = d ∨ (i, storeRead d m i) ∈ m := by
  induction m with
  | nil => exact .inl rfl
  | cons c m ih =>
    obtain ⟨k, v⟩ := c
    by_cases hk : k = i
    · simp [storeRead, hk]
    · simpa [storeRead, hk, Ne.symm hk] using ih

theorem PendFile.Fits.read_ts_lt {c : Config} {p : PendFile} (h : PendFile.Fits c p) (k : Nat) :
    (PendFile.read p k).ts < c.tsModulus := by
  rcases storeRead_eq_or_mem pendUnlisted p k with hd | hm
  · rw [PendFile.read, hd]; exact Config.tsModulus_pos c
  · exact h.stamps _ hm

theorem PendFile.Fits.write {c : Config} {p : PendFile} (h : PendFile.Fits c p) {k : Nat} (hk : k < pendEntries)
    {e : PendEntry} (he : e.ts < c.tsModulus) : PendFile.Fits c (PendFile.write p k e) where
  wf := PendFile.write_wf e h.wf hk
  stamps x hx := by
    rcases storeWrite_mem hx with ⟨rfl, -⟩ | hx
    · exact he
    · exact h.stamps x hx

/-- Clearing the valid bit of an entry and keeping its timestamp, as an Ack, `SWEEP` and `RESET` do. -/
theorem PendFile.Fits.invalidate {c : Config} {p : PendFile} (h : PendFile.Fits c p) {k : Nat} (hk : k < pendEntries) :
    PendFile.Fits c (PendFile.write p k ⟨false, (PendFile.read p k).ts⟩) := h.write hk (h.read_ts_lt k)

theorem PendFile.Fits.clear {c : Config} {p : PendFile} (h : PendFile.Fits c p) : PendFile.Fits c (PendFile.clear p) :=
  pendLoop_keeps _ (PendFile.Fits c) pendEntries (fun _ _ hk hq => hq.invalidate hk) p h

theorem PendFile.Fits.sweepAll {c : Config} {p : PendFile} (h : PendFile.Fits c p) (now : Nat) :
    PendFile.Fits c (sweepAll c now p) := by
  refine pendLoop_keeps _ (PendFile.Fits c) pendEntries (fun q k hk hq => ?_) p h
  unfold sweepEntry
  simp only
  split
  · exact hq.invalidate hk
  · exact hq

/-! ### The part of the invariant that is not about the parser's registers -/

/-- The invariant without `State.parserFits`: PBUF, PEND and the event channel. It holds also between the last CRC byte and the
`parser_reset` that ends a frame, where `f_crc_rx` is complete and `parserFits` fails. -/
structure State.DataInv (s : State) : Prop where
  pbuf : Memory.wf s.pbuf
  pend : PendFile.Fits s.cfg s.pend
  events : ∀ e ∈ s.evq, e.fits s.cfg
  depth : ∀ d, s.cfg.evqDepth = some d → s.evq.length ≤ d

theorem State.inv_iff {s : State} : s.Inv ↔ s.parserFits ∧ s.DataInv :=
  ⟨fun h => ⟨h.parser, h.pbuf, ⟨h.pend, h.stamps⟩, h.events, h.depth⟩,
   fun ⟨hp, hd⟩ => ⟨hp, hd.pbuf, hd.pend.wf, hd.pend.stamps, hd.events, hd.depth⟩⟩

theorem State.Inv.data {s : State} (h : s.Inv) : s.DataInv := (State.inv_iff.1 h).2

/-- `parserFits` reads the parser and nothing else. -/
theorem State.parserFits_congr {s t : State} (h : s.sameParser t) (hs : s.parserFits) : t.parserFits := by
  obtain ⟨hf, hv, hl, hm, hq, hc, -, hx⟩ := h
  unfold State.parserFits
  rw [hf, hv, hl, hm, hq, hc, hx]
  exact hs

theorem State.DataInv.of_eq {s t : State} (h : s.DataInv) (hc : t.cfg = s.cfg) (hb : t.pbuf = s.pbuf) (hp : t.pend = s.pend)
    (he : t.evq = s.evq) : t.DataInv where
  pbuf := hb ▸ h.pbuf
  pend := hc ▸ hp ▸ h.pend
  events := hc ▸ he ▸ h.events
  depth := hc ▸ he ▸ h.depth

/-- `parser_reset` makes the parser's registers fit whatever they were (R121). -/
theorem State.DataInv.parserReset {s : State} (h : s.DataInv) : s.parserReset.Inv :=
  State.inv_iff.2 ⟨⟨rfl, rfl, rfl, rfl, rfl, rfl⟩, h.of_eq rfl rfl rfl rfl⟩

theorem State.DataInv.setPend {s : State} (h : s.DataInv) {p : PendFile} (hp : PendFile.Fits s.cfg p) : (s.setPend p).DataInv :=
  ⟨h.pbuf, hp, h.events, h.depth⟩

/-- An entry of PEND is written: its index is a byte, so it exists. -/
theorem State.DataInv.writePend {s : State} (h : s.DataInv) (k : Byte) {e : PendEntry} (he : e.ts < s.cfg.tsModulus) :
    (s.writePend k e).DataInv := h.setPend (h.pend.write k.isLt he)

/-- An emission shifts the room by one. -/
theorem State.hasRoom_emit (s : State) (e : Event) (n : Nat) : (s.emit e).hasRoom n = s.hasRoom (n + 1) := by
  unfold State.hasRoom
  rw [State.emit_cfg]
  cases s.cfg.evqDepth with
  | none => rfl
  | some d => simp only [State.emit_evq, List.length_append, List.length_singleton]; congr 2; omega

theorem State.DataInv.emit {s : State} (h : s.DataInv) (hm : s.hasRoom 1 = true) {e : Event} (he : e.fits s.cfg) :
    (s.emit e).DataInv where
  pbuf := h.pbuf
  pend := h.pend
  events x hx := by
    rcases List.mem_append.1 hx with hx | hx
    · exact h.events x hx
    · rw [List.mem_singleton.1 hx]; exact he
  depth d hd := by
    rw [State.emit_cfg] at hd
    simpa [State.hasRoom, hd] using hm

theorem State.DataInv.emptyChannels {s : State} (h : s.DataInv) : s.emptyChannels.DataInv :=
  ⟨h.pbuf, h.pend, List.forall_mem_nil _, fun d _ => Nat.zero_le d⟩

theorem State.DataInv.setReady {s : State} (h : s.DataInv) : s.setReady.DataInv := h.of_eq rfl rfl rfl rfl

/-- An Ack's correlation keeps PEND and `evq` fitting where `evq` has room for one event (R150, R87). -/
theorem State.DataInv.ackCorrelate {s : State} (h : s.DataInv) (hm : s.hasRoom 1 = true) (now : Nat) :
    (ackCorrelate now s).DataInv := by
  have hclear : (s.writePend s.fSeq ⟨false, (s.pendAt s.fSeq).ts⟩).DataInv := h.writePend _ (h.pend.read_ts_lt _)
  rcases ackCorrelate_cases now s with ⟨e, -⟩ | ⟨-, -, -, e⟩ | ⟨-, -, -, e⟩ <;> rw [e]
  · exact h
  · exact hclear
  · exact hclear.emit hm (tsSub_spec s.cfg _ now).1.1

/-! ### The received byte that completes a frame -/

/-- What follows the verdict (R107, R108) emits only events that fit: the verdict says why. -/
theorem concludeFrame_keeps_data {s u : State} {p : List Byte} {now : Nat} (h : s.DataInv) (hm : s.hasRoom 2 = true)
    (hp : s.payload = some p) (hu : concludeFrame (validate s p) now s = .next u) : u.DataInv := by
  have hm1 : s.hasRoom 1 = true := State.hasRoom_mono (by decide) hm
  have hframe (hv : s.fVersion = protoVersion) : (Event.frame s.fVersion s.fMsgId s.fSeq s.fLength p).fits s.cfg :=
    ⟨hv, State.payload_length hp, (State.payload_eq_some.1 hp).1⟩
  rcases conclude_cases hp hu with ⟨hc, rfl⟩ | ⟨-, hv, rfl⟩ | ⟨-, hv, -, rfl⟩ | ⟨-, hv, -, rfl⟩
  · exact h.emit hm1 (Ne.symm hc)
  · exact h.emit hm1 ⟨fun e => hv (zext16_injective e), toNat_zext16_lt _, rfl⟩
  · exact h.emit hm1 (hframe hv)
  · exact (h.emit hm1 (hframe hv)).ackCorrelate (State.hasRoom_emit s _ 1 ▸ hm) now

theorem rxReadCrcHi_keeps_inv {s t : State} {b : Byte} {now : Nat} (h : s.DataInv)
    (he : exec (.rxReadCrcHi b now) s = .next t) : t.Inv := by
  obtain ⟨-, hm, p, u, hp, hu, rfl⟩ := execRxReadCrcHi_eq_next.1 he
  have hcrc : (s.setCrcRx (s.fCrcRx ||| (zext16 b <<< 8))).DataInv := h.of_eq rfl rfl rfl rfl
  exact (concludeFrame_keeps_data hcrc hm hp hu).parserReset

/-! ### The other received bytes -/

/-- `RX_BYTE` in `ReadLenHi` (R126), with the guard of each end. -/
theorem rxByte_readLenHi_cases {s t : State} {b : Byte} {now : Nat} (hf : s.fsm = .readLenHi)
    (h : exec (.rxByte b now) s = .next t) :
    s.hasRoom 1 = true ∧
    let n := s.fLength ||| (zext16 b <<< 8)
    (maxLen < n.toNat ∧ t = ((s.setLength n).raiseDiag .lengthOverflow n 0#16).parserReset) ∨
    (n.toNat ≤ maxLen ∧ t = ((s.setLength n).setCount 0#8).setFsm .readMsgId) := by
  simp only [exec, execRxByte, hf] at h
  obtain ⟨-, h⟩ := whenReady_eq_next.1 h
  obtain ⟨hm, h⟩ := whenRoom_eq_next.1 h
  refine ⟨hm, ?_⟩
  simp only at h
  split at h <;> rename_i hn <;> simp only [lengthOverflows, decide_eq_true_eq, Nat.not_lt] at hn <;> cases h
  · exact .inl ⟨hn, rfl⟩
  · exact .inr ⟨hn, rfl⟩

theorem State.payloadComplete_iff {s : State} : s.payloadComplete = true ↔ s.pCount.toNat = s.fLength.toNat :=
  decide_eq_true_iff

/-- `RX_BYTE` in `ReadPayload` (R129), with the state that follows. -/
theorem rxByte_readPayload_cases {s t : State} {b : Byte} {now : Nat} (hf : s.fsm = .readPayload)
    (h : exec (.rxByte b now) s = .next t) :
    s.pCount.toNat < pbufEntries ∧
    t = ((s.writePbuf s.pCount.toNat b).setCount (s.pCount + 1#8)).setFsm
      (if (s.pCount + 1#8).toNat = s.fLength.toNat then .readCrcLo else .readPayload) := by
  simp only [exec, execRxByte, hf] at h
  obtain ⟨-, h⟩ := whenReady_eq_next.1 h
  split at h
  · next hlt =>
    refine ⟨hlt, ?_⟩
    cases h
    split <;> rename_i hc <;>
      simp only [State.payloadComplete_iff, State.setCount_pCount, State.setCount_fLength, State.writePbuf_fLength] at hc
    · rw [if_pos hc]
    · rw [if_neg hc, ← hf]; rfl
  · cases h

theorem readLenHi_keeps_inv {s t : State} {b : Byte} {now : Nat} (h : s.Inv) (hf : s.fsm = .readLenHi)
    (he : exec (.rxByte b now) s = .next t) : t.Inv := by
  obtain ⟨hm, ⟨hn, rfl⟩ | ⟨hn, rfl⟩⟩ := rxByte_readLenHi_cases hf he
  · have hlen : (s.setLength (s.fLength ||| (zext16 b <<< 8))).DataInv := h.data.of_eq rfl rfl rfl rfl
    have hfits : (Event.diag .lengthOverflow (s.fLength ||| (zext16 b <<< 8)) 0#16).fits s.cfg := ⟨hn, rfl⟩
    exact (hlen.emit hm hfits).parserReset
  · have hp := h.parser
    simp only [State.parserFits, hf] at hp
    obtain ⟨-, hid, hseq, -, hcrc⟩ := hp
    exact State.inv_iff.2 ⟨⟨hn, hid, hseq, rfl, hcrc⟩, h.data.of_eq rfl rfl rfl rfl⟩

theorem readPayload_keeps_inv {s t : State} {b : Byte} {now : Nat} (h : s.Inv) (hf : s.fsm = .readPayload)
    (he : exec (.rxByte b now) s = .next t) : t.Inv := by
  obtain ⟨hlt, rfl⟩ := rxByte_readPayload_cases hf he
  have hp := h.parser
  simp only [State.parserFits, hf] at hp
  obtain ⟨hl, hc, hx⟩ := hp
  have hlt' : s.pCount.toNat < 128 := hlt
  have hcount : (s.pCount + 1#8).toNat = s.pCount.toNat + 1 := by
    rw [BitVec.toNat_add]
    exact Nat.mod_eq_of_lt (by simp; omega)
  refine State.inv_iff.2 ⟨?_, Memory.write_wf b h.pbuf hlt, h.data.pend, h.events, h.depth⟩
  split <;> rename_i hfull
  · exact ⟨hl, hfull, hx⟩
  · exact ⟨hl, Nat.lt_of_le_of_ne (hcount ▸ hc) hfull, hx⟩

/-- `RX_BYTE` in `ReadSeq` (R128): `p_count` is 0, so it is `f_length` or below it. -/
theorem readSeq_keeps_parserFits {s : State} (h : s.parserFits) (hf : s.fsm = .readSeq) (b : Byte) :
    ((s.setSeq b).setFsm (if s.fLength = 0#16 then .readCrcLo else .readPayload)).parserFits := by
  simp only [State.parserFits, hf] at h
  obtain ⟨hl, -, hc, hx⟩ := h
  split <;> rename_i h0
  · refine ⟨hl, ?_, hx⟩
    rw [State.setFsm_pCount, State.setSeq_pCount, State.setFsm_fLength, State.setSeq_fLength, hc, h0]
    rfl
  · refine ⟨hl, ?_, hx⟩
    rw [State.setFsm_pCount, State.setSeq_pCount, State.setFsm_fLength, State.setSeq_fLength, hc]
    exact Nat.pos_of_ne_zero fun h => h0 (BitVec.eq_of_toNat_eq h)

theorem rxByte_keeps_inv {s t : State} {b : Byte} {now : Nat} (h : s.Inv) (he : exec (.rxByte b now) s = .next t) : t.Inv := by
  have hp := h.parser
  have hkeep {u : State} (hu : u.parserFits) (hc : u.cfg = s.cfg) (hb : u.pbuf = s.pbuf) (hq : u.pend = s.pend)
      (hv : u.evq = s.evq) : u.Inv := State.inv_iff.2 ⟨hu, h.data.of_eq hc hb hq hv⟩
  obtain ⟨-, hcases⟩ := rx_cases he
  rcases hcases with ⟨hf, ht⟩ | ⟨hf, ht⟩ | ⟨hf, rfl⟩ | ⟨hf, rfl⟩ | ⟨hf, -⟩ | ⟨hf, -⟩ | ⟨hf, rfl⟩ |
    ⟨hf, rfl⟩ | ⟨hf, -⟩ | ⟨hf, rfl⟩ | ⟨-, hhi⟩
  · simp only [State.parserFits, hf] at hp
    rcases ht with rfl | rfl
    · exact h
    · exact hkeep hp rfl rfl rfl rfl
  · simp only [State.parserFits, hf] at hp
    rcases ht with rfl | rfl | ⟨-, -, rfl⟩ <;> exact hkeep hp rfl rfl rfl rfl
  · simp only [State.parserFits, hf] at hp
    obtain ⟨-, hrest⟩ := hp
    exact hkeep hrest rfl rfl rfl rfl
  · simp only [State.parserFits, hf] at hp
    obtain ⟨-, hrest⟩ := hp
    exact hkeep ⟨toNat_zext16_lt b, hrest⟩ rfl rfl rfl rfl
  · exact readLenHi_keeps_inv h hf he
  · exact readLenHi_keeps_inv h hf he
  · simp only [State.parserFits, hf] at hp
    obtain ⟨hl, -, hrest⟩ := hp
    exact hkeep ⟨hl, hrest⟩ rfl rfl rfl rfl
  · exact hkeep (readSeq_keeps_parserFits hp hf b) rfl rfl rfl rfl
  · exact readPayload_keeps_inv h hf he
  · simp only [State.parserFits, hf] at hp
    obtain ⟨hl, hc, -⟩ := hp
    exact hkeep ⟨hl, hc, toNat_zext16_lt b⟩ rfl rfl rfl rfl
  · exact rxReadCrcHi_keeps_inv h.data hhi

/-! ### The other operations, and the step -/

/-- `TX_FRAME` of a payload whose length is a `u16` (R81): its rejection reports that length as it is (R182). -/
theorem txFrame_keeps_inv {s t : State} {msgId seq : Byte} {payload : List Byte} {now : Nat} (h : s.Inv)
    (hlen : payload.length < 65536) (he : exec (.txFrame msgId seq payload now) s = .next t) : t.Inv := by
  refine State.inv_iff.2 ⟨State.parserFits_congr (txFrame_frame he).1 h.parser, ?_⟩
  have htx : (s.txout (encodeFrame msgId seq payload)).DataInv := h.data.of_eq rfl rfl rfl rfl
  obtain ⟨-, hm, ⟨hl, rfl⟩ | ⟨-, -, rfl⟩ | ⟨-, -, rfl⟩⟩ := tx_cases he
  · have hfits : (Event.diag .txLengthReject (BitVec.ofNat 16 payload.length) (BitVec.ofNat 16 maxLen)).fits s.cfg :=
      ⟨by rw [BitVec.toNat_ofNat, Nat.mod_eq_of_lt hlen]; exact hl, rfl⟩
    exact h.data.emit hm hfits
  · exact htx.writePend seq (Nat.mod_lt _ (Config.tsModulus_pos _))
  · have hfits : (Event.diag .txWriteFail (zext16 seq) (zext16 msgId)).fits s.cfg := ⟨toNat_zext16_lt seq, toNat_zext16_lt msgId⟩
    exact htx.emit hm hfits

theorem sweep_keeps_inv {s t : State} {now : Nat} (h : s.Inv) (he : exec (.sweep now) s = .next t) : t.Inv := by
  refine State.inv_iff.2 ⟨State.parserFits_congr (sweep_frame he).1 h.parser, ?_⟩
  obtain ⟨-, rfl⟩ := exec_sweep_eq_next.1 he
  exact h.data.setPend (h.data.pend.sweepAll now)

theorem reset_keeps_inv {s t : State} (h : s.Inv) (he : exec .reset s = .next t) : t.Inv := by
  rw [exec_reset_eq_next.1 he]
  have hpend : PendFile.Fits s.parserReset.cfg (PendFile.clear s.pend) := h.data.pend.clear
  exact State.inv_iff.2 ⟨⟨rfl, rfl, rfl, rfl, rfl, rfl⟩, (h.data.parserReset.data.setPend hpend).emptyChannels.setReady⟩

/-- A host transaction is one of the four operations, or is refused. -/
theorem transaction_keeps_inv {s t : State} {c : Config} {bytes : List Byte} {i : Instr} (h : s.Inv)
    (hdec : decode c (.host bytes) = .ok i) (he : exec i s = .next t) : t.Inv := by
  rcases decode_host_cases hdec with ⟨b, n, rfl⟩ | ⟨m, q, p, n, rfl, hlen⟩ | ⟨n, rfl⟩ | rfl | hrefused
  · exact rxByte_keeps_inv h he
  · exact txFrame_keeps_inv h hlen he
  · exact sweep_keeps_inv h he
  · exact reset_keeps_inv h he
  · obtain ⟨r, hr⟩ := hrefused s
    rw [hr] at he
    cases he

/-- The invariant does not speak of the model's own fields `input` and `link`. -/
theorem State.Inv.present {s : State} (h : s.Inv) (rest : List HostAct) (txOk : Bool) :
    State.Inv { s with input := rest, link := txOk } :=
  ⟨h.parser, h.pbuf, h.pend, h.stamps, h.events, h.depth⟩

/-- Settles O44, by the kinds of step: idle, a take from either channel, a transaction. -/
theorem everyStepKeepsTheInvariant : Obligations.EveryStepKeepsTheInvariant := by
  intro s t h hstep
  rcases step_cases hstep with ⟨-, rfl⟩ | ⟨rest, -, -, rfl⟩ | ⟨rest, -, -, rfl⟩ | ⟨bytes, txOk, rest, i, -, hdec, he⟩
  · exact h
  · exact ⟨h.parser, h.pbuf, h.pend, h.stamps, fun e he => h.events e (List.mem_of_mem_drop he),
      fun d hd => (List.drop_sublist 1 s.evq).length_le.trans (h.depth d hd)⟩
  · exact ⟨h.parser, h.pbuf, h.pend, h.stamps, h.events, h.depth⟩
  · exact transaction_keeps_inv (h.present rest txOk) hdec he

end Sys2Proof.Machine
end

section
/-! What one instruction can change outside the parser, and how `fsm` moves (10_state.md R21 to R23, R31, R34, R36); the codes (R22, R85). -/
namespace Sys2Proof

/-- Two parser states with one code are one state: the decoder's `FsmState.ofCode` recovers it (R22). -/
theorem FsmState.code_injective {f g : FsmState} (h : f.code = g.code) : f = g :=
  Option.some.inj (by rw [← FsmState.ofCode_code f, h, FsmState.ofCode_code])

end Sys2Proof

namespace Sys2Proof.Machine

/-! ### The instructions that touch neither PEND nor `txq` -/

/-- From `s` to `t` the parameters, PEND and the transmit stream are as before. -/
def State.sameStores (s t : State) : Prop := t.cfg = s.cfg ∧ t.pend = s.pend ∧ t.txq = s.txq

theorem stWaitSync0_stores (b : Byte) (s : State) : s.sameStores (stWaitSync0 b s) := by
  unfold stWaitSync0
  split <;> exact ⟨rfl, rfl, rfl⟩

theorem stWaitSync1Other_stores (b : Byte) (s : State) : s.sameStores (stWaitSync1Other b s) := by
  simp only [stWaitSync1Other]
  split
  · exact stWaitSync0_stores b (s.setFsm .waitSync0)
  · exact ⟨rfl, rfl, rfl⟩

theorem rxReadLenHi_stores {b : Byte} {s t : State} (h : exec (.rxReadLenHi b) s = .next t) : s.sameStores t := by
  obtain ⟨-, h⟩ := whenReady_eq_next.1 h
  obtain ⟨-, h⟩ := whenRoom_eq_next.1 h
  simp only at h
  split at h <;> cases h <;> exact ⟨rfl, rfl, rfl⟩

theorem rxReadPayload_stores {b : Byte} {s t : State} (h : exec (.rxReadPayload b) s = .next t) : s.sameStores t := by
  obtain ⟨-, h⟩ := whenReady_eq_next.1 h
  split at h <;> cases h
  split <;> exact ⟨rfl, rfl, rfl⟩

theorem dispatchPlain_stores {s t : State} (h : dispatchPlain s = .next t) : s.sameStores t := by
  obtain ⟨-, -, p, -, rfl⟩ := dispatchPlain_eq_next.1 h
  exact ⟨rfl, rfl, rfl⟩

/-- A byte that does not complete a frame. -/
theorem rxByte_stores {b : Byte} {now : Nat} {s t : State} (hf : s.fsm ≠ .readCrcHi) (h : exec (.rxByte b now) s = .next t) :
    s.sameStores t := by
  obtain ⟨-, hcases⟩ := rx_cases h
  simp only [hf, false_and, or_false] at hcases
  rcases hcases with ⟨-, rfl | rfl⟩ | ⟨-, rfl | rfl | ⟨-, -, rfl⟩⟩ | ⟨-, rfl⟩ | ⟨-, rfl⟩ | ⟨-, rfl⟩ | ⟨-, rfl⟩ | ⟨-, rfl⟩ |
    ⟨-, rfl⟩ | ⟨-, -, f, -, rfl⟩ | ⟨-, rfl⟩ <;>
    exact ⟨rfl, rfl, rfl⟩

theorem exec_rxByte_of_readCrcHi {s : State} (hf : s.fsm = .readCrcHi) (b : Byte) (now : Nat) :
    exec (.rxByte b now) s = exec (.rxReadCrcHi b now) s := by
  simp only [exec, execRxByte, hf]

/-- The kinds of instruction that answer a next state: one that leaves the parameters, PEND and `txq` alone, or one of the five that may
write PEND or `txq`. The last is the byte that completes a frame, as `RX_BYTE` or as its row. -/
theorem exec_cases {i : Instr} {s t : State} (h : exec i s = .next t) :
    s.sameStores t ∨ i = .reset ∨
    (∃ msgId seq payload now, i = .txFrame msgId seq payload now) ∨ (∃ now, i = .sweep now) ∨ (∃ now, i = .msgAck now) ∨
    (∃ b now, (i = .rxByte b now ∧ s.fsm = .readCrcHi ∨ i = .rxReadCrcHi b now) ∧ exec (.rxReadCrcHi b now) s = .next t) := by
  cases i
  case reset => exact .inr (.inl rfl)
  case txFrame msgId seq payload now => exact .inr (.inr (.inl ⟨_, _, _, _, rfl⟩))
  case sweep now => exact .inr (.inr (.inr (.inl ⟨_, rfl⟩)))
  case msgAck now => exact .inr (.inr (.inr (.inr (.inl ⟨_, rfl⟩))))
  case rxReadCrcHi b now => exact .inr (.inr (.inr (.inr (.inr ⟨b, now, .inr rfl, h⟩))))
  case rxByte b now =>
    by_cases hf : s.fsm = .readCrcHi
    · exact .inr (.inr (.inr (.inr (.inr ⟨b, now, .inl ⟨rfl, hf⟩, exec_rxByte_of_readCrcHi hf b now ▸ h⟩))))
    · exact .inl (rxByte_stores hf h)
  case msgControlCmd | msgImu | msgWheel | msgSensor | msgUnknown => exact .inl (dispatchPlain_stores h)
  case rxReadLenHi => exact .inl (rxReadLenHi_stores h)
  case rxReadPayload => exact .inl (rxReadPayload_stores h)
  case rxWaitSync0Sync0 | rxWaitSync0Other =>
    obtain ⟨-, h⟩ := whenReady_eq_next.1 h
    cases h
    exact .inl (stWaitSync0_stores _ s)
  case rxWaitSync1Sync0Replay | rxWaitSync1Other =>
    obtain ⟨-, h⟩ := whenReady_eq_next.1 h
    cases h
    exact .inl (stWaitSync1Other_stores _ s)
  case rxWaitSync1Sync1 | rxReadVersion | rxReadLenLo | rxReadMsgId | rxReadSeq | rxReadCrcLo =>
    obtain ⟨-, h⟩ := whenReady_eq_next.1 h
    cases h
    exact .inl ⟨rfl, rfl, rfl⟩
  all_goals cases h

/-! ### What the five others do to PEND and `txq` -/

/-- `RESET` clears every valid bit and keeps every timestamp (R230; log entry 7). -/
theorem reset_pendAt {s t : State} (h : exec .reset s = .next t) (k : Byte) : t.pendAt k = ⟨false, (s.pendAt k).ts⟩ := by
  rw [exec_reset_eq_next.1 h]
  have hk : k.toNat < pendEntries := k.isLt
  simp only [State.pendAt, State.setReady_pend, State.emptyChannels_pend, State.setPend_pend, PendFile.clear_read, if_pos hk]

/-- `SWEEP` clears the valid bit of an expired entry, or leaves the entry (R165). -/
theorem sweep_pendAt {now : Nat} {s t : State} (h : exec (.sweep now) s = .next t) (k : Byte) :
    ((s.pendAt k).valid = true ∧ expired s.cfg (s.pendAt k).ts now = true ∧ t.pendAt k = ⟨false, (s.pendAt k).ts⟩) ∨
    t.pendAt k = s.pendAt k := by
  obtain ⟨-, rfl⟩ := exec_sweep_eq_next.1 h
  have hk : k.toNat < pendEntries := k.isLt
  simp only [State.pendAt, State.setPend_pend, sweepAll_read, if_pos hk]
  split
  · next hexp =>
    obtain ⟨hv, hexp⟩ := Bool.and_eq_true_iff.1 hexp
    exact .inl ⟨hv, hexp, rfl⟩
  · exact .inr rfl

/-- `TX_FRAME` changes no entry but the one at its seq, and that one only by recording `now` (R160). -/
theorem txFrame_pendAt {msgId seq : Byte} {payload : List Byte} {now : Nat} {s t : State}
    (h : exec (.txFrame msgId seq payload now) s = .next t) {k : Byte} (hk : t.pendAt k ≠ s.pendAt k) :
    k = seq ∧ t.pendAt k = ⟨true, now % 2 ^ s.cfg.tsWidth⟩ := by
  obtain ⟨-, -, ⟨-, rfl⟩ | ⟨-, -, rfl⟩ | ⟨-, -, rfl⟩⟩ := tx_cases h
  · exact absurd rfl hk
  · by_cases hseq : k = seq
    · subst hseq
      exact ⟨rfl, pendAt_writePend_same _ k _⟩
    · exact absurd (pendAt_writePend_other _ _ hseq) hk
  · exact absurd rfl hk

theorem txFrame_txq {msgId seq : Byte} {payload : List Byte} {now : Nat} {s t : State}
    (h : exec (.txFrame msgId seq payload now) s = .next t) :
    t.txq = s.txq ∨ t.txq = s.txq ++ encodeFrame msgId seq payload := by
  obtain ⟨-, -, ⟨-, rfl⟩ | ⟨-, -, rfl⟩ | ⟨-, -, rfl⟩⟩ := tx_cases h
  · exact .inl rfl
  · exact .inr rfl
  · exact .inr rfl

/-- What an Ack may do outside the parser and `evq`: clear the valid bit of the entry at `f_seq` (R150). -/
theorem msgAck_frame {now : Nat} {s t : State} (h : exec (.msgAck now) s = .next t) :
    t.cfg = s.cfg ∧ t.txq = s.txq ∧ ∀ k, t.pendAt k ≠ s.pendAt k →
      k = s.fSeq ∧ (s.pendAt k).valid = true ∧ t.pendAt k = ⟨false, (s.pendAt k).ts⟩ := by
  obtain ⟨-, -, p, -, rfl⟩ := execMsgAck_eq_next.1 h
  obtain ⟨htxq, -, ⟨hcfg, -⟩, -, hpend⟩ := ack_frame now (s.emit (.frame s.fVersion s.fMsgId s.fSeq s.fLength p))
  exact ⟨hcfg, htxq, hpend⟩

/-- What the byte that completes a frame may do outside the parser and `evq`: what an Ack may, if the frame is one (R131). -/
theorem rxReadCrcHi_frame {b : Byte} {now : Nat} {s t : State} (h : exec (.rxReadCrcHi b now) s = .next t) :
    t.cfg = s.cfg ∧ t.txq = s.txq ∧ ∀ k, t.pendAt k ≠ s.pendAt k →
      s.fMsgId = ackMsgId ∧ k = s.fSeq ∧ (s.pendAt k).valid = true ∧ t.pendAt k = ⟨false, (s.pendAt k).ts⟩ := by
  obtain ⟨p, u, -, -, rfl, ⟨-, rfl⟩ | ⟨-, -, rfl⟩ | ⟨-, -, -, rfl⟩ | ⟨-, -, hid, rfl⟩⟩ := crcHi_cases h
  case inr.inr.inr =>
    obtain ⟨htxq, -, ⟨hcfg, -⟩, -, hpend⟩ := ack_frame now
      ((s.setCrcRx (s.fCrcRx ||| (zext16 b <<< 8))).emit (.frame s.fVersion s.fMsgId s.fSeq s.fLength p))
    exact ⟨hcfg, htxq, fun k hk => ⟨hid, hpend k hk⟩⟩
  all_goals exact ⟨rfl, rfl, fun k hk => absurd rfl hk⟩

/-! ### The statements -/

/-- Settles O3: `RESET` leaves PBUF, and an entry of PEND keeps its timestamp. -/
theorem resetOperationKeepsUnspecifiedCells : Obligations.ResetOperationKeepsUnspecifiedCells := by
  intro s t h
  refine ⟨fun a => ?_, fun k => by rw [reset_pendAt h k]⟩
  rw [exec_reset_eq_next.1 h]
  rfl

theorem exec_cfg {i : Instr} {s t : State} (h : exec i s = .next t) : t.cfg = s.cfg := by
  rcases exec_cases h with ⟨hcfg, -⟩ | rfl | ⟨m, q, p, n, rfl⟩ | ⟨n, rfl⟩ | ⟨n, rfl⟩ | ⟨b, n, -, hhi⟩
  · exact hcfg
  · rw [exec_reset_eq_next.1 h]; rfl
  · exact (txFrame_frame h).2.1
  · exact (sweep_frame h).2.1
  · exact (msgAck_frame h).1
  · exact (rxReadCrcHi_frame hhi).1

/-- Settles O47: no instruction changes the parameters, and the other steps change only the input and a channel. -/
theorem parametersNeverChange : Obligations.ParametersNeverChange := by
  intro s t h
  rcases step_cases h with ⟨-, rfl⟩ | ⟨rest, -, -, rfl⟩ | ⟨rest, -, -, rfl⟩ | ⟨bytes, txOk, rest, i, -, -, he⟩
  · rfl
  · rfl
  · rfl
  · have hcfg := exec_cfg he
    exact hcfg

/-- Settles O52, by the kinds of instruction. -/
theorem onlyTxFrameAppendsToTheTransmitStream : Obligations.OnlyTxFrameAppendsToTheTransmitStream := by
  intro s t i h
  rcases exec_cases h with ⟨-, -, htxq⟩ | rfl | ⟨m, q, p, n, rfl⟩ | ⟨n, rfl⟩ | ⟨n, rfl⟩ | ⟨b, n, -, hhi⟩
  · exact .inl htxq
  · exact .inr (.inl ⟨rfl, by rw [exec_reset_eq_next.1 h]; rfl⟩)
  · exact (txFrame_txq h).imp_right fun ht => .inr ⟨m, q, p, n, rfl, ht⟩
  · exact .inl (by rw [(exec_sweep_eq_next.1 h).2, State.setPend_txq])
  · exact .inl (msgAck_frame h).2.1
  · exact .inl (rxReadCrcHi_frame hhi).2.1

/-- An entry that clearing its valid bit changes was valid. -/
theorem PendEntry.valid_of_clear_ne {e : PendEntry} (h : (⟨false, e.ts⟩ : PendEntry) ≠ e) : e.valid = true := by
  by_contra hv
  rw [Bool.not_eq_true] at hv
  exact h (by rw [← hv])

/-- Settles O53, by the kinds of instruction: each of the five that may write PEND says which entry it writes and what. -/
theorem pendEntriesChangeOnlyInFourWays : Obligations.PendEntriesChangeOnlyInFourWays := by
  intro s t i k h hk
  rcases exec_cases h with ⟨-, hpend, -⟩ | rfl | ⟨m, q, p, n, rfl⟩ | ⟨n, rfl⟩ | ⟨n, rfl⟩ | ⟨b, n, hi, hhi⟩
  · exact absurd (by rw [State.pendAt, State.pendAt, hpend]) hk
  · have ht := reset_pendAt h k
    exact .inr ⟨PendEntry.valid_of_clear_ne (ht ▸ hk), ht, .inl rfl⟩
  · obtain ⟨rfl, ht⟩ := txFrame_pendAt h hk
    exact .inl ⟨m, p, n, rfl, ht⟩
  · rcases sweep_pendAt h k with ⟨hv, hexp, ht⟩ | ht
    · exact .inr ⟨hv, ht, .inr (.inl ⟨n, rfl, hexp⟩)⟩
    · exact absurd ht hk
  · obtain ⟨-, -, hpend⟩ := msgAck_frame h
    obtain ⟨rfl, hv, ht⟩ := hpend k hk
    exact .inr ⟨hv, ht, .inr (.inr (.inl ⟨n, rfl, rfl⟩))⟩
  · obtain ⟨-, -, hpend⟩ := rxReadCrcHi_frame hhi
    obtain ⟨hid, rfl, hv, ht⟩ := hpend k hk
    exact .inr ⟨hv, ht, .inr (.inr (.inr ⟨b, n, hi, hid, rfl⟩))⟩

theorem rxReadCrcHi_fsm {b : Byte} {now : Nat} {s t : State} (h : exec (.rxReadCrcHi b now) s = .next t) : t.fsm = .waitSync0 := by
  obtain ⟨-, u, -, -, rfl, -⟩ := crcHi_cases h
  rfl

/-- How a byte moves `fsm` (R23), by the parser state. -/
theorem rxByte_fsm {b : Byte} {now : Nat} {s t : State} (h : exec (.rxByte b now) s = .next t) :
    t.fsm = s.fsm ∨ t.fsm.code.toNat = s.fsm.code.toNat + 1 ∨ (s.fsm = .readSeq ∧ s.fLength = 0#16 ∧ t.fsm = .readCrcLo) ∨
      ((s.fsm = .waitSync1 ∨ s.fsm = .readLenHi ∨ s.fsm = .readCrcHi) ∧ t.fsm = .waitSync0) := by
  obtain ⟨-, hcases⟩ := rx_cases h
  rcases hcases with ⟨hf, rfl | rfl⟩ | ⟨hf, rfl | rfl | ⟨-, -, rfl⟩⟩ | ⟨hf, rfl⟩ | ⟨hf, rfl⟩ | ⟨hf, rfl⟩ | ⟨hf, rfl⟩ | ⟨hf, rfl⟩ |
    ⟨hf, rfl⟩ | ⟨hf, -, f, rfl | rfl, rfl⟩ | ⟨hf, rfl⟩ | ⟨hf, hhi⟩ <;> rw [hf]
  · exact .inl rfl
  · exact .inr (.inl rfl)
  · exact .inr (.inl rfl)
  · exact .inr (.inr (.inr ⟨.inl rfl, rfl⟩))
  · exact .inl rfl
  · exact .inr (.inl rfl)
  · exact .inr (.inl rfl)
  · exact .inr (.inl rfl)
  · exact .inr (.inr (.inr ⟨.inr (.inl rfl), rfl⟩))
  · exact .inr (.inl rfl)
  · by_cases hl : s.fLength = 0
    · exact .inr (.inr (.inl ⟨rfl, hl, if_pos hl⟩))
    · exact .inr (.inl (by rw [State.setFsm_fsm, if_neg hl]; rfl))
  · exact .inr (.inl rfl)
  · exact .inl rfl
  · exact .inr (.inl rfl)
  · exact .inr (.inr (.inr ⟨.inr (.inr rfl), rxReadCrcHi_fsm hhi⟩))

/-- Settles O48: the moves of `RX_BYTE`, its return from `ReadCrcHi`, and the frames of `TX_FRAME` and `SWEEP`. -/
theorem fsmMovesAsTheTransitionsSay : Obligations.FsmMovesAsTheTransitionsSay := by
  refine ⟨fun s t b now _ h => ⟨rxByte_fsm h, fun hf => ?_⟩, ?_⟩
  · rw [exec_rxByte_of_readCrcHi hf] at h
    exact rxReadCrcHi_fsm h
  · rintro s t i (⟨m, q, p, n, rfl⟩ | ⟨n, rfl⟩) h
    · exact (txFrame_frame h).1.1
    · exact (sweep_frame h).1.1

theorem Event.kind_ne_zero (e : Event) : e.kind ≠ 0#2 := by
  cases e <;> simp [Event.kind]

/-- Settles O60. -/
theorem codesAreTheSpecifiedNumbers : Obligations.CodesAreTheSpecifiedNumbers :=
  ⟨by decide, fun _ _ => FsmState.code_injective, by decide, Event.kind_ne_zero, fun _ _ _ _ _ => rfl, fun _ _ _ _ _ => rfl,
    fun _ _ _ => rfl⟩

end Sys2Proof.Machine
end

section
/-! The storage model (20_memory.md): no access of PBUF is out of range (R60, R61), `SWEEP` and `RESET` are idempotent (R67), and no
interleaving can be seen in the parser (R72). -/
namespace Sys2Proof.Machine

/-! ### A payload of more bytes than PBUF has: every reader of it stops (log entry 11) -/

theorem payload_none {s : State} (hl : pbufEntries < s.fLength.toNat) : s.payload = none :=
  if_neg (Nat.not_le.2 hl)

theorem emitFrame_of_long {s : State} (hl : pbufEntries < s.fLength.toNat) :
    emitFrame s = .fault (.pbufOutOfRange pbufEntries) := by
  simp only [emitFrame, payload_none hl]

theorem dispatchPlain_of_long {s : State} (hr : s.ready = true) (hm : s.hasRoom 1 = true) (hl : pbufEntries < s.fLength.toNat) :
    dispatchPlain s = .fault (.pbufOutOfRange pbufEntries) := by
  rw [dispatchPlain, whenReady_of_ready hr, whenRoom_of_room hm, emitFrame_of_long hl]

theorem execMsgAck_of_long {s : State} (now : Nat) (hr : s.ready = true) (hm : s.hasRoom 2 = true)
    (hl : pbufEntries < s.fLength.toNat) : execMsgAck now s = .fault (.pbufOutOfRange pbufEntries) := by
  rw [execMsgAck, whenReady_of_ready hr, whenRoom_of_room hm, emitFrame_of_long hl, andThen_fault]

theorem execRxReadCrcHi_of_long {s : State} (b : Byte) (now : Nat) (hr : s.ready = true) (hm : s.hasRoom 2 = true)
    (hl : pbufEntries < s.fLength.toNat) : execRxReadCrcHi b now s = .fault (.pbufOutOfRange pbufEntries) := by
  rw [execRxReadCrcHi, whenReady_of_ready hr, whenRoom_of_room hm]
  have hnone : (s.setCrcRx (s.fCrcRx ||| (zext16 b <<< 8))).payload = none := payload_none hl
  simp only [hnone]

theorem execRxReadPayload_of_beyond {s : State} (b : Byte) (hr : s.ready = true) (hc : pbufEntries ≤ s.pCount.toNat) :
    execRxReadPayload b s = .fault (.pbufOutOfRange s.pCount.toNat) := by
  rw [execRxReadPayload, whenReady_of_ready hr, if_neg (Nat.not_lt.2 hc)]

/-- Settles O8: the one row that writes PBUF, and the rows that read a frame's payload. -/
theorem accessBeyondPbufStops : Obligations.AccessBeyondPbufStops := by
  intro s b id now hr hm
  refine ⟨fun hc => execRxReadPayload_of_beyond b hr hc, fun hl => ?_⟩
  have hplain := dispatchPlain_of_long hr (State.hasRoom_mono (by omega) hm) hl
  exact ⟨execRxReadCrcHi_of_long b now hr hm hl, hplain, hplain, hplain, hplain, hplain, execMsgAck_of_long now hr hm hl⟩

/-! ### `RX_BYTE` in the two states that hunt for the sync marker -/

/-- In `WaitSync0` both rows are `st_wait_sync0` (R122). -/
theorem exec_rxByte_of_waitSync0 {s : State} (hf : s.fsm = .waitSync0) (b : Byte) (now : Nat) :
    exec (.rxByte b now) s = whenReady s (.next (stWaitSync0 b s)) := by
  simp only [exec, execRxByte, hf]
  split
  · next hb => rw [hb]; rfl
  · rfl

/-- In `WaitSync1` the two rows of a byte that is not `SYNC1` have one body (R123). -/
theorem exec_rxByte_of_waitSync1 {s : State} (hf : s.fsm = .waitSync1) (b : Byte) (now : Nat) :
    exec (.rxByte b now) s =
      whenReady s (.next (if b = sync1 then s.setFsm .readVersion else stWaitSync1Other b s)) := by
  simp only [exec, execRxByte, hf]
  split_ifs with h1 h0
  · rfl
  · rw [h0]; rfl
  · rfl

/-! ### Under the invariant no access is out of range (R61) -/

/-- The outcome is not the stop for an access beyond PBUF. -/
def inRange (r : Result) : Prop := ∀ index, r ≠ .fault (.pbufOutOfRange index)

theorem inRange_next (s : State) : inRange (.next s) := nofun
theorem inRange_refused (e : Refusal) : inRange (.refused e) := nofun

theorem inRange_whenReady {s : State} {r : Result} (h : inRange r) : inRange (whenReady s r) := by
  unfold whenReady
  split
  · exact h
  · exact inRange_refused _

theorem inRange_whenRoom {n : Nat} {s : State} {r : Result} (h : inRange r) : inRange (whenRoom n s r) := by
  unfold whenRoom
  split
  · exact h
  · exact nofun

theorem inRange_andThen {r : Result} {k : State → Result} (hr : inRange r) (hk : ∀ s, inRange (k s)) : inRange (andThen r k) := by
  cases r with
  | next s => exact hk s
  | fault e => exact hr
  | refused e => exact inRange_refused e

theorem inRange_emitFrame {s : State} (hl : s.fLength.toNat ≤ pbufEntries) : inRange (emitFrame s) := by
  rw [emitFrame_eq_next.2 ⟨_, payload_some hl, rfl⟩]
  exact inRange_next _

theorem inRange_dispatch {s : State} (now : Nat) (hl : s.fLength.toNat ≤ pbufEntries) : inRange (dispatch now s) := by
  rw [dispatch_eq]
  split
  · exact inRange_whenReady (inRange_whenRoom (inRange_andThen (inRange_emitFrame hl) fun _ => inRange_next _))
  · exact inRange_whenReady (inRange_whenRoom (inRange_emitFrame hl))

theorem inRange_concludeFrame {s : State} (v : Verdict) (now : Nat) (hl : s.fLength.toNat ≤ pbufEntries) :
    inRange (concludeFrame v now s) := by
  cases v with
  | ok => exact inRange_dispatch now hl
  | crcMismatch rx computed => exact inRange_next _
  | versionMismatch v => exact inRange_next _

theorem inRange_rxReadCrcHi {s : State} (b : Byte) (now : Nat) (hl : s.fLength.toNat ≤ pbufEntries) :
    inRange (execRxReadCrcHi b now s) := by
  refine inRange_whenReady (inRange_whenRoom ?_)
  have hp := payload_some (s := s.setCrcRx (s.fCrcRx ||| (zext16 b <<< 8))) hl
  simp only [hp]
  exact inRange_andThen (inRange_concludeFrame _ now hl) fun _ => inRange_next _

theorem inRange_rxReadPayload {s : State} (b : Byte) (hc : s.pCount.toNat < pbufEntries) : inRange (execRxReadPayload b s) := by
  refine inRange_whenReady ?_
  rw [if_pos hc]
  exact inRange_next _

theorem inRange_rxReadLenHi (b : Byte) (s : State) : inRange (execRxReadLenHi b s) := by
  refine inRange_whenReady (inRange_whenRoom ?_)
  simp only
  split <;> exact inRange_next _

/-- `RX_BYTE` accesses PBUF in two parser states, and in both `State.parserFits` bounds the index (R25, R27). -/
theorem inRange_rxByte {s : State} (b : Byte) (now : Nat) (hp : s.parserFits) : inRange (exec (.rxByte b now) s) := by
  cases hf : s.fsm <;> simp only [State.parserFits, hf] at hp
  case waitSync0 =>
    rw [exec_rxByte_of_waitSync0 hf]
    exact inRange_whenReady (inRange_next _)
  case waitSync1 =>
    rw [exec_rxByte_of_waitSync1 hf]
    exact inRange_whenReady (inRange_next _)
  all_goals simp only [exec, execRxByte, hf]
  case readLenHi => exact inRange_rxReadLenHi b s
  case readPayload =>
    obtain ⟨hl, hc, -⟩ := hp
    exact inRange_rxReadPayload b (Nat.lt_of_lt_of_le hc hl)
  case readCrcHi =>
    obtain ⟨hl, -⟩ := hp
    exact inRange_rxReadCrcHi b now hl
  all_goals exact inRange_whenReady (inRange_next _)

theorem inRange_txFrame (msgId seq : Byte) (payload : List Byte) (now : Nat) (s : State) :
    inRange (exec (.txFrame msgId seq payload now) s) := by
  refine inRange_whenReady (inRange_whenRoom ?_)
  simp only
  split_ifs <;> exact inRange_next _

/-- A host transaction is one of the four operations, or is refused. -/
theorem inRange_transaction {s : State} {c : Config} {bytes : List Byte} {i : Instr} (hp : s.parserFits)
    (hdec : decode c (.host bytes) = .ok i) : inRange (exec i s) := by
  rcases decode_host_cases hdec with ⟨b, n, rfl⟩ | ⟨m, q, p, n, rfl, -⟩ | ⟨n, rfl⟩ | rfl | hrefused
  · exact inRange_rxByte b n hp
  · exact inRange_txFrame m q p n s
  · exact inRange_whenReady (inRange_next _)
  · exact inRange_next _
  · obtain ⟨r, hr⟩ := hrefused s
    rw [hr]
    exact inRange_refused r

theorem inRange_stepTransaction {s : State} (bytes : List Byte) (txOk : Bool) (hp : s.parserFits) :
    inRange (stepTransaction bytes txOk s) := by
  cases hdec : decode s.cfg (.host bytes) with
  | ok i =>
    rw [stepTransaction_of_decode hdec]
    have hp' : State.parserFits { s with link := txOk } := hp
    exact inRange_transaction hp' hdec
  | error e =>
    simp only [stepTransaction, hdec]
    exact inRange_refused _

/-- Settles O45, by the item at the head of the input: only a transaction accesses PBUF. -/
theorem noAccessIsOutOfRange : Obligations.NoAccessIsOutOfRange := by
  intro s index h
  suffices hstep : inRange (step s) from hstep index
  cases hin : s.input with
  | nil =>
    rw [step, hin]
    exact inRange_next s
  | cons act rest =>
    cases act with
    | op bytes txOk =>
      rw [step_of_op hin]
      have hp : State.parserFits { s with input := rest } := h.parser
      exact inRange_stepTransaction bytes txOk hp
    | takeEvent =>
      rw [step_of_takeEvent hin]
      exact inRange_whenReady (inRange_next _)
    | takeByte =>
      rw [step_of_takeByte hin]
      exact inRange_whenReady (inRange_next _)

/-! ### Idempotence (R67) -/

/-- Register files in canonical form with the same entries are equal. -/
theorem PendFile.ext_read {p q : PendFile} (hp : PendFile.wf p) (hq : PendFile.wf q)
    (h : ∀ k, PendFile.read p k = PendFile.read q k) : p = q := store_ext hp hq h

/-- A swept register file holds no entry that is still valid and expired at `now`, so a second loop finds nothing to write. -/
theorem sweepAll_idem (c : Config) (now : Nat) {p : PendFile} (hp : PendFile.wf p) :
    sweepAll c now (sweepAll c now p) = sweepAll c now p := by
  refine PendFile.ext_read (sweepAll_wf c now (sweepAll_wf c now hp)) (sweepAll_wf c now hp) fun k => ?_
  rw [sweepAll_read c now (sweepAll c now p)]
  split
  · next hk =>
    rw [sweepAll_read, if_pos hk]
    by_cases hexp : ((PendFile.read p k).valid && expired c (PendFile.read p k).ts now) = true
    · simp only [if_pos hexp, Bool.false_and, Bool.false_eq_true, if_false]
    · simp only [if_neg hexp]
  · rfl

theorem PendFile.clear_idem {p : PendFile} (hp : PendFile.wf p) : PendFile.clear (PendFile.clear p) = PendFile.clear p := by
  refine PendFile.ext_read (PendFile.clear_wf (PendFile.clear_wf hp)) (PendFile.clear_wf hp) fun k => ?_
  rw [PendFile.clear_read (PendFile.clear p)]
  split
  · next hk => rw [PendFile.clear_read, if_pos hk]
  · rfl

theorem State.setPend_setPend (s : State) (p q : PendFile) : (s.setPend p).setPend q = s.setPend q := rfl

theorem execSweep_idem {s : State} (now : Nat) (hp : PendFile.wf s.pend) :
    andThen (execSweep now s) (execSweep now) = execSweep now s := by
  cases hr : s.ready with
  | true =>
    rw [execSweep, whenReady_of_ready hr, andThen_next, execSweep, whenReady_of_ready (by rw [State.setPend_ready, hr])]
    rw [State.setPend_cfg, State.setPend_pend, sweepAll_idem s.cfg now hp, State.setPend_setPend]
  | false => rw [execSweep, whenReady_of_not hr, andThen_refused]

theorem execReset_idem {s : State} (hp : PendFile.wf s.pend) : andThen (execReset s) execReset = execReset s := by
  rw [execReset, andThen_next, execReset]
  simp only [State.setReady_pend, State.emptyChannels_pend, State.setPend_pend, PendFile.clear_idem hp]
  rfl

/-- Settles O4: the two loops over PEND are idempotent on a canonical register file, and the other fields are set to constants. -/
theorem sweepAndResetAreIdempotent : Obligations.SweepAndResetAreIdempotent :=
  fun _ now hp => ⟨execSweep_idem now hp, execReset_idem hp⟩

/-! ### The parser depends on itself alone (R72) -/

theorem State.sameParser.refl (s : State) : s.sameParser s := ⟨rfl, rfl, rfl, rfl, rfl, rfl, rfl, rfl⟩

theorem State.sameParser.symm {s t : State} (h : s.sameParser t) : t.sameParser s := by
  obtain ⟨hf, hv, hl, hm, hq, hc, hb, hx⟩ := h
  exact ⟨hf.symm, hv.symm, hl.symm, hm.symm, hq.symm, hc.symm, hb.symm, hx.symm⟩

theorem State.sameParser.trans {s t u : State} (h : s.sameParser t) (h' : t.sameParser u) : s.sameParser u := by
  obtain ⟨hf, hv, hl, hm, hq, hc, hb, hx⟩ := h
  obtain ⟨hf', hv', hl', hm', hq', hc', hb', hx'⟩ := h'
  exact ⟨hf'.trans hf, hv'.trans hv, hl'.trans hl, hm'.trans hm, hq'.trans hq, hc'.trans hc, hb'.trans hb, hx'.trans hx⟩

/-- A state with the parser of `s` is `s` but for the fields outside the parser. -/
theorem State.sameParser.eq_update {s t : State} (h : s.sameParser t) :
    t = { s with cfg := t.cfg, ready := t.ready, pend := t.pend, evq := t.evq, txq := t.txq, link := t.link, input := t.input } := by
  obtain ⟨hf, hv, hl, hm, hq, hc, hb, hx⟩ := h
  rw [← hf, ← hv, ← hl, ← hm, ← hq, ← hc, ← hb, ← hx]

/-- What a received byte makes of the parser (R122 to R131), with no event, no PEND and no time: a completed frame resets the parser,
whatever its validation answers. `rxByte_parser` ties it to `RX_BYTE`. -/
def State.parserAfter (b : Byte) (s : State) : State :=
  match s.fsm with
  | .waitSync0 => stWaitSync0 b s
  | .waitSync1 => if b = sync1 then s.setFsm .readVersion else stWaitSync1Other b s
  | .readVersion => (s.setVersion b).setFsm .readLenLo
  | .readLenLo => (s.setLength (zext16 b)).setFsm .readLenHi
  | .readLenHi =>
    let n := s.fLength ||| (zext16 b <<< 8)
    if maxLen < n.toNat then s.parserReset else ((s.setLength n).setCount 0#8).setFsm .readMsgId
  | .readMsgId => (s.setMsgId b).setFsm .readSeq
  | .readSeq => (s.setSeq b).setFsm (if s.fLength = 0#16 then .readCrcLo else .readPayload)
  | .readPayload => ((s.writePbuf s.pCount.toNat b).setCount (s.pCount + 1#8)).setFsm
      (if (s.pCount + 1#8).toNat = s.fLength.toNat then .readCrcLo else .readPayload)
  | .readCrcLo => (s.setCrcRx (zext16 b)).setFsm .readCrcHi
  | .readCrcHi => s.parserReset
  | .invalidA | .invalidB | .invalidC | .invalidD | .invalidE | .invalidF => s

/-- The byte that completes a frame leaves the payload bytes, and clears the other parser fields (R131). -/
theorem rxReadCrcHi_parser {b : Byte} {now : Nat} {s t : State} (h : exec (.rxReadCrcHi b now) s = .next t) :
    s.parserReset.sameParser t := by
  obtain ⟨p, u, -, -, rfl, hu⟩ := crcHi_cases h
  have hbuf : u.pbuf = s.pbuf := by
    obtain ⟨-, rfl⟩ | ⟨-, -, rfl⟩ | ⟨-, -, -, rfl⟩ | ⟨-, -, -, rfl⟩ := hu
    case inr.inr.inr =>
      obtain ⟨-, ⟨-, -, -, -, -, -, hbuf, -⟩, -⟩ := ack_frame now
        ((s.setCrcRx (s.fCrcRx ||| (zext16 b <<< 8))).emit (.frame s.fVersion s.fMsgId s.fSeq s.fLength p))
      exact hbuf
    all_goals rfl
  exact ⟨rfl, rfl, rfl, rfl, rfl, rfl, hbuf, rfl⟩

/-- What `RX_BYTE` leaves in the parser is `State.parserAfter`. -/
theorem rxByte_parser {b : Byte} {now : Nat} {s t : State} (h : exec (.rxByte b now) s = .next t) :
    (s.parserAfter b).sameParser t := by
  unfold State.parserAfter
  cases hf : s.fsm
  case readLenHi =>
    obtain ⟨-, ⟨hn, rfl⟩ | ⟨hn, rfl⟩⟩ := rxByte_readLenHi_cases hf h
    · simp only [if_pos hn]
      exact .refl _
    · simp only [if_neg (Nat.not_lt.2 hn)]
      exact .refl _
  case readPayload =>
    obtain ⟨-, rfl⟩ := rxByte_readPayload_cases hf h
    exact .refl _
  case readCrcHi => exact rxReadCrcHi_parser (exec_rxByte_of_readCrcHi hf b now ▸ h)
  case waitSync0 =>
    rw [exec_rxByte_of_waitSync0 hf] at h
    obtain ⟨-, h⟩ := whenReady_eq_next.1 h
    cases h
    exact .refl _
  case waitSync1 =>
    rw [exec_rxByte_of_waitSync1 hf] at h
    obtain ⟨-, h⟩ := whenReady_eq_next.1 h
    cases h
    exact .refl _
  all_goals simp only [exec, execRxByte, hf] at h
  case invalidA | invalidB | invalidC | invalidD | invalidE | invalidF => cases h
  all_goals
    obtain ⟨-, h⟩ := whenReady_eq_next.1 h
    cases h
    exact .refl _

/-- `stWaitSync0` (R122) on two states that differ outside the parser. -/
theorem stWaitSync0_sameParser {s s' : State} (b : Byte) (h : s.sameParser s') :
    (stWaitSync0 b s).sameParser (stWaitSync0 b s') := by
  rw [h.eq_update]
  unfold stWaitSync0
  split <;> exact .refl _

/-- `stWaitSync1Other` (R123) reads `SYNC1_REPLAY` beside the parser. -/
theorem stWaitSync1Other_sameParser {s s' : State} (b : Byte) (h : s.sameParser s')
    (hreplay : s.cfg.sync1Replay = s'.cfg.sync1Replay) : (stWaitSync1Other b s).sameParser (stWaitSync1Other b s') := by
  have hset : (s.setFsm .waitSync0).sameParser (s'.setFsm .waitSync0) := by
    rw [h.eq_update]
    exact .refl _
  cases hr : s'.cfg.sync1Replay <;> simp only [stWaitSync1Other, State.setFsm_cfg, hreplay, hr, if_true, Bool.false_eq_true, if_false]
  · exact hset
  · exact stWaitSync0_sameParser b hset

/-- What becomes of the parser depends on the parser, on the byte and on `SYNC1_REPLAY` alone. -/
theorem State.parserAfter_sameParser {s s' : State} (b : Byte) (h : s.sameParser s')
    (hreplay : s.cfg.sync1Replay = s'.cfg.sync1Replay) : (s.parserAfter b).sameParser (s'.parserAfter b) := by
  have hfsm : s'.fsm = s.fsm := h.1
  unfold State.parserAfter
  cases hf : s.fsm <;> simp only [hfsm, hf]
  case waitSync0 => exact stWaitSync0_sameParser b h
  case waitSync1 =>
    split_ifs
    · rw [h.eq_update]
      exact .refl _
    · exact stWaitSync1Other_sameParser b h hreplay
  case readLenHi =>
    rw [h.eq_update]
    simp only
    split <;> exact .refl _
  all_goals
    rw [h.eq_update]
    exact .refl _

/-- Settles O50: both runs leave `State.parserAfter` of their parser. -/
theorem parserDependsOnlyOnItself : Obligations.ParserDependsOnlyOnItself := by
  intro s s' t t' b m n h hreplay ht ht'
  exact ((rxByte_parser ht).symm.trans (State.parserAfter_sameParser b h hreplay)).trans (rxByte_parser ht')

end Sys2Proof.Machine
end

section
/-! Decoding and encoding are inverse to each other at the three levels of the table (30_encoding.md R80, R81, R89, R91); reserved
transactions (R90); `RX_BYTE` and the row it selects (R91, R120). -/
namespace Sys2Proof

/-! ### Bytes, operands and the codes of the parser states -/

@[simp] theorem Config.tsFits_iff {c : Config} {now : Nat} : c.tsFits now = true ↔ now < c.tsModulus := by simp [Config.tsFits]

theorem eq_ofNat_of_toNat_eq {b : Byte} {n : Nat} (h : b.toNat = n) : b = BitVec.ofNat 8 n := by
  rw [← h, BitVec.ofNat_toNat, BitVec.setWidth_eq]

/-- The two bytes of a `u16` operand, low byte first. -/
theorem leBytes_two (n : Nat) : leBytes 2 n = [BitVec.ofNat 8 n, BitVec.ofNat 8 (n / 256)] := rfl

theorem le16_ofNat_toNat {n : Nat} (h : n < 65536) : (le16 (BitVec.ofNat 8 n) (BitVec.ofNat 8 (n / 256))).toNat = n := by
  rw [le16_toNat, BitVec.toNat_ofNat, BitVec.toNat_ofNat]
  omega

theorem leBytes_le16 (lo hi : Byte) : leBytes 2 (le16 lo hi).toNat = [lo, hi] := by
  rw [le16_toNat]
  exact leBytes_leNat [lo, hi]

/-- `fsmStates` lists the parser states in the order of their codes, so a code finds the state it belongs to (R22). -/
theorem FsmState.code_of_ofCode {n : Nat} {f : FsmState} (h : FsmState.ofCode n = some f) : f.code.toNat = n := by
  have hcodes : fsmStates.map (fun g => g.code.toNat) = List.range 16 := by decide
  have hn : (List.range 16)[n]? = some f.code.toNat := by
    rw [← hcodes, List.getElem?_map, show fsmStates[n]? = some f from h]
    rfl
  obtain ⟨_, hval⟩ := List.getElem?_eq_some_iff.1 hn
  rw [← hval, List.getElem_range]

end Sys2Proof

namespace Sys2Proof.Machine

/-- Encoding, then decoding, the last operand. -/
theorem map_decodeNow_leBytes {c : Config} {now : Nat} (h : now < c.tsModulus) (f : Nat → Instr) :
    (decodeNow c (leBytes c.tsBytes now)).map f = .ok (f now) := by
  rw [decodeNow_leBytes c now h]
  rfl

/-- Decoding, then encoding, the last operand. -/
theorem map_decodeNow_eq_ok {c : Config} {l : List Byte} {f : Nat → Instr} {i : Instr} (h8 : c.tsWidth % 8 = 0)
    (h : (decodeNow c l).map f = .ok i) : ∃ now, now < c.tsModulus ∧ l = leBytes c.tsBytes now ∧ i = f now := by
  cases hn : decodeNow c l with
  | error e =>
    rw [hn] at h
    cases h
  | ok now =>
    rw [hn] at h
    obtain ⟨hfits, hbytes⟩ := decodeNow_ok h8 hn
    cases h
    exact ⟨now, hfits, hbytes.symm, rfl⟩

/-! ### Host transactions -/

/-- The payload's length, read back from its two bytes, parts the payload from the timestamp (R80, R81). -/
theorem decode_encode_txFrame {c : Config} (msgId seq : Byte) {payload : List Byte} {now : Nat} (hlen : payload.length < 65536)
    (hnow : now < c.tsModulus) :
    decode c (encode c (.txFrame msgId seq payload now)) = .ok (.txFrame msgId seq payload now) := by
  change decodeTxFrame c (msgId :: seq :: BitVec.ofNat 8 payload.length :: BitVec.ofNat 8 (payload.length / 256) ::
    (payload ++ leBytes c.tsBytes now)) = _
  simp only [decodeTxFrame, le16_ofNat_toNat hlen]
  rw [if_neg (by simp), List.drop_left, List.take_left, map_decodeNow_leBytes hnow]

/-- With one of the four headers, what decodes is an encoding (R80, R81). -/
theorem encode_decode_host {c : Config} {hdr : Byte} {rest : List Byte} {i : Instr} (h8 : c.tsWidth % 8 = 0)
    (hhdr : hdr ∈ [0x10#8, 0x20#8, 0x30#8, 0xF0#8]) (h : decode c (.host (hdr :: rest)) = .ok i) :
    i.wf c = true ∧ encode c i = .host (hdr :: rest) := by
  simp only [List.mem_cons, List.not_mem_nil, or_false] at hhdr
  rcases hhdr with rfl | rfl | rfl | rfl
  · change decodeRxByte c rest = .ok i at h
    cases rest with
    | nil => cases h
    | cons b l =>
      obtain ⟨now, hnow, rfl, rfl⟩ := map_decodeNow_eq_ok h8 h
      exact ⟨Config.tsFits_iff.2 hnow, rfl⟩
  · change decodeTxFrame c rest = .ok i at h
    unfold decodeTxFrame at h
    split at h
    · next msgId seq lo hi l =>
      simp only at h
      split at h
      · cases h
      · next hlen =>
        obtain ⟨now, hnow, hl, rfl⟩ := map_decodeNow_eq_ok h8 h
        have htake : (l.take (le16 lo hi).toNat).length = (le16 lo hi).toNat := List.length_take_of_le (by omega)
        refine ⟨?_, ?_⟩
        · simp only [Instr.wf, htake, Bool.and_eq_true, decide_eq_true_eq, Config.tsFits_iff]
          exact ⟨(le16 lo hi).isLt, hnow⟩
        · simp only [encode, encodeHost, htake, leBytes_le16, ← hl, List.cons_append, List.nil_append, List.take_append_drop]
    · cases h
  · obtain ⟨now, hnow, rfl, rfl⟩ := map_decodeNow_eq_ok (l := rest) h8 h
    exact ⟨Config.tsFits_iff.2 hnow, rfl⟩
  · cases rest with
    | nil => cases h; exact ⟨rfl, rfl⟩
    | cons b l => cases h

/-- Bits 3:0 of a header are zero when the header is a multiple of 16. -/
theorem and_0F_eq_zero_iff (hdr : Byte) : hdr &&& 0x0F#8 = 0#8 ↔ hdr.toNat % 16 = 0 := by
  have h15 : hdr.toNat &&& 15 = hdr.toNat % 16 := Nat.and_two_pow_sub_one_eq_mod hdr.toNat 4
  rw [← BitVec.toNat_inj, BitVec.toNat_and]
  exact h15 ▸ Iff.rfl

/-- The row of a reserved header, whatever follows it: one row for each op code with bits 3:0 zero, `RESERVED_HDR` for any other (R90). -/
theorem decode_reserved (c : Config) {hdr : Byte} (hhdr : hdr ∉ [0x10#8, 0x20#8, 0x30#8, 0xF0#8]) (rest : List Byte) :
    ∃ i, decode c (.host (hdr :: rest)) = .ok i ∧
      (hdr &&& 0x0F#8 = 0#8 ∧ (∀ s, exec i s = .refused (.reservedOp (hdr >>> 4 |>.setWidth 4))) ∨
        hdr &&& 0x0F#8 ≠ 0#8 ∧ i = .reservedHdr hdr) := by
  simp only [decode, decodeHost]
  split
  case h_17 =>
    refine ⟨_, rfl, .inr ⟨?_, rfl⟩⟩
    rw [Ne, and_0F_eq_zero_iff]
    have := hdr.isLt
    simp only [imp_false] at *
    omega
  case h_1 | h_2 | h_3 | h_4 => next hcode =>
    obtain rfl := eq_ofNat_of_toNat_eq hcode
    exact absurd (by decide) hhdr
  all_goals next hcode =>
    obtain rfl := eq_ofNat_of_toNat_eq hcode
    exact ⟨_, rfl, .inl ⟨rfl, fun _ => rfl⟩⟩

/-- A header whose bits 3:0 are not zero is none of the four operations' headers, so it is `RESERVED_HDR` (R90). -/
theorem decode_reservedHdr (c : Config) {hdr : Byte} (h : hdr &&& 0x0F#8 ≠ 0#8) (rest : List Byte) :
    decode c (.host (hdr :: rest)) = .ok (.reservedHdr hdr) := by
  have hhdr : hdr ∉ [0x10#8, 0x20#8, 0x30#8, 0xF0#8] := by
    simp only [List.mem_cons, List.not_mem_nil, or_false]
    rintro (rfl | rfl | rfl | rfl) <;> exact h (by decide)
  obtain ⟨i, hdec, ⟨hzero, -⟩ | ⟨-, rfl⟩⟩ := decode_reserved c hhdr rest
  · exact absurd hzero h
  · exact hdec

/-! ### The rows of `RX_BYTE` -/

theorem rxRow_waitSync0_of_ne {b : Byte} (h : b ≠ sync0) (now : Nat) : rxRow .waitSync0 b now = .rxWaitSync0Other b := if_neg h

theorem rxRow_waitSync1_of_ne {b : Byte} (h1 : b ≠ sync1) (h0 : b ≠ sync0) (now : Nat) :
    rxRow .waitSync1 b now = .rxWaitSync1Other b := by
  simp only [rxRow, if_neg h1, if_neg h0]

/-- A decode key that decodes is the key of a parser state and a byte, and decodes to their row (R91). -/
theorem decodeKey_eq_ok {key : Half} {now : Nat} {i : Instr} (h : decodeKey key now = .ok i) :
    ∃ f b, key = rxKey f b ∧ i = rxRow f b now := by
  unfold decodeKey at h
  split at h
  · next f hf =>
    cases h
    refine ⟨f, loByte key, ?_, rfl⟩
    have hcode : f.code.setWidth 8 = hiByte key := by
      rw [← BitVec.toNat_inj, BitVec.toNat_setWidth_of_le (by decide)]
      exact FsmState.code_of_ofCode hf
    rw [rxKey_eq_le16, hcode, le16_loByte_hiByte]
  · cases h

/-- The row of a parser state and a byte is well formed, and its code has their key (R91). -/
theorem encode_rxRow {c : Config} (f : FsmState) (b : Byte) {now : Nat} (hnow : now < c.tsModulus) :
    (rxRow f b now).wf c = true ∧ ∃ n, encode c (rxRow f b now) = .rx (rxKey f b) n := by
  cases f
  case waitSync0 =>
    by_cases h0 : b = sync0
    · subst h0
      exact ⟨rfl, 0, rfl⟩
    · rw [rxRow_waitSync0_of_ne h0]
      exact ⟨decide_eq_true h0, 0, rfl⟩
  case waitSync1 =>
    by_cases h1 : b = sync1
    · subst h1
      exact ⟨rfl, 0, rfl⟩
    · by_cases h0 : b = sync0
      · subst h0
        exact ⟨rfl, 0, rfl⟩
      · rw [rxRow_waitSync1_of_ne h1 h0]
        exact ⟨by simp only [Instr.wf, h1, h0, ne_eq, not_false_eq_true, decide_true, Bool.and_self], 0, rfl⟩
  case readCrcHi => exact ⟨Config.tsFits_iff.2 hnow, now, rfl⟩
  all_goals exact ⟨rfl, 0, rfl⟩

/-- `RX_BYTE` is the row that the parser state and the byte select (R91, R120). -/
theorem exec_rxRow (s : State) (b : Byte) (now : Nat) : exec (rxRow s.fsm b now) s = exec (.rxByte b now) s := by
  simp only [exec, execRxByte]
  cases s.fsm
  case waitSync0 | waitSync1 =>
    simp only [rxRow]
    split_ifs <;> rfl
  all_goals rfl

/-! ### The dispatch of a frame -/

theorem msgRow_of_unassigned {id : Byte} (h : id ∉ assignedMsgIds) (now : Nat) : msgRow id now = .msgUnknown id := by
  unfold msgRow
  split
  case h_6 => rfl
  all_goals next hid => exact absurd (eq_ofNat_of_toNat_eq hid ▸ by decide) h

/-- The dispatch of a msg_id is well formed, and its code has that msg_id (R89). -/
theorem encode_msgRow {c : Config} (id : Byte) {now : Nat} (hnow : now < c.tsModulus) :
    (msgRow id now).wf c = true ∧ ∃ n, encode c (msgRow id now) = .msg id n := by
  by_cases h : id ∈ assignedMsgIds
  · simp only [assignedMsgIds, List.mem_cons, List.not_mem_nil, or_false] at h
    rcases h with rfl | rfl | rfl | rfl | rfl
    case inr.inr.inr.inr => exact ⟨Config.tsFits_iff.2 hnow, now, rfl⟩
    all_goals exact ⟨rfl, 0, rfl⟩
  · rw [msgRow_of_unassigned h]
    exact ⟨by simp only [Instr.wf, List.contains_eq_mem, h, decide_false, Bool.not_false], 0, rfl⟩

/-! ### The statements -/

/-- Settles O13, by the instruction: the four operations by their operands, a reserved header by its bits, a transition or a dispatch as the
row of its key. -/
theorem decodingAnEncodedInstructionGivesItBack : Obligations.DecodingAnEncodedInstructionGivesItBack := by
  intro c i hwf
  cases i
  case rxByte b now => exact map_decodeNow_leBytes (Config.tsFits_iff.1 hwf) _
  case txFrame msgId seq payload now =>
    obtain ⟨hlen, hnow⟩ := Bool.and_eq_true_iff.1 hwf
    exact decode_encode_txFrame msgId seq (of_decide_eq_true hlen) (Config.tsFits_iff.1 hnow)
  case sweep now => exact map_decodeNow_leBytes (Config.tsFits_iff.1 hwf) _
  case reservedHdr hdr => exact decode_reservedHdr c (of_decide_eq_true hwf) []
  case rxWaitSync0Other b =>
    exact (decodeKey_rxKey _ _ _).trans (congrArg _ (rxRow_waitSync0_of_ne (of_decide_eq_true hwf) 0))
  case rxWaitSync1Other b =>
    obtain ⟨h1, h0⟩ := Bool.and_eq_true_iff.1 hwf
    exact (decodeKey_rxKey _ _ _).trans (congrArg _ (rxRow_waitSync1_of_ne (of_decide_eq_true h1) (of_decide_eq_true h0) 0))
  case msgUnknown id =>
    have hid : id ∉ assignedMsgIds := by simpa [Instr.wf] using hwf
    exact congrArg _ (msgRow_of_unassigned hid 0)
  case rxReadVersion | rxReadLenLo | rxReadLenHi | rxReadMsgId | rxReadSeq | rxReadPayload | rxReadCrcLo | rxReadCrcHi |
      rxInvalidFsmA | rxInvalidFsmB | rxInvalidFsmC | rxInvalidFsmD | rxInvalidFsmE | rxInvalidFsmF =>
    exact decodeKey_rxKey _ _ _
  all_goals rfl

/-- Settles O6: the step decodes the transaction to the row of its header, and each of these rows refuses in every state. -/
theorem reservedTransactionsAreRefused : Obligations.ReservedTransactionsAreRefused := by
  intro s hdr rest txOk more hin hhdr
  obtain ⟨i, hdec, hrow⟩ := decode_reserved s.cfg hhdr rest
  rw [stepRunsThePresentedInstruction s i _ txOk more hin hdec]
  rcases hrow with ⟨hzero, hexec⟩ | ⟨hne, rfl⟩
  · exact ⟨_, hexec _, .inl ⟨rfl, hzero⟩⟩
  · exact ⟨_, rfl, .inr ⟨rfl, hne⟩⟩

/-- Settles O14, level by level. -/
theorem encodingADecodedInstructionGivesItBack : Obligations.EncodingADecodedInstructionGivesItBack := by
  intro c i h8
  refine ⟨fun hdr rest hhdr h => encode_decode_host h8 hhdr h, fun key now hnow h => ?_, fun id now hnow h => ?_⟩
  · obtain ⟨f, b, rfl, rfl⟩ := decodeKey_eq_ok h
    exact encode_rxRow f b hnow
  · cases h
    exact encode_msgRow id hnow

/-- Settles O12, by running the decoder on the thirteen words. -/
theorem writtenOutWordsDecode : Obligations.WrittenOutWordsDecode :=
  ⟨rfl, rfl, rfl, rfl, rfl, rfl, rfl, rfl, rfl, rfl, rfl, rfl, rfl⟩

/-- Settles O15: the key is `rxKey` of the parser state and the byte. -/
theorem rxByteRunsTheSelectedRow : Obligations.RxByteRunsTheSelectedRow :=
  fun s b now => ⟨rxRow s.fsm b now, decodeKey_rxKey s.fsm b now, (exec_rxRow s b now).symm⟩

end Sys2Proof.Machine
end

section
/-! The CRC engine, frame validation and dispatch (40_crc_validator.md). -/
namespace Sys2Proof.Machine

/-! ### The CRC engine (R100 to R103, R109) -/

/-- With `CRC_XOROUT` zero, the CRC is the register itself (R101). -/
theorem crc16_eq_foldl (m : List Byte) : crc16 m = m.foldl crcStep crcInit := BitVec.xor_zero

set_option maxRecDepth 20000 in
/-- Settles O40, by running the engine on the seven vectors. -/
theorem crcGivesTheCheckValues : Obligations.CrcGivesTheCheckValues :=
  ⟨by decide, by decide, by decide, by decide, by decide, by decide, by decide⟩

/-- Settles O41: the register after the common bytes tells the two bytes apart, and folding the rest loses nothing of it. -/
theorem oneCorruptedByteChangesTheCrc : Obligations.OneCorruptedByteChangesTheCrc := by
  intro before after x y hxy h
  simp only [crc16_eq_foldl, List.foldl_append, List.foldl_cons] at h
  exact hxy (crcStep_inj_right _ x y (crcFold_inj after _ _ h))

/-! ### Dispatch (R107) -/

/-- Settles O28: the five rows are one dispatch. -/
theorem dispatchEmitsTheFrame : Obligations.DispatchEmitsTheFrame := by
  intro s id hr hm hl
  have hplain := dispatchPlain_of hr hm hl
  exact ⟨hplain, hplain, hplain, hplain, hplain⟩

/-! ### A frame that fails validation (R105, R108) -/

theorem concludeFrame_of_crc_ne {s : State} {p : List Byte} (h : crc16 (s.span p) ≠ s.fCrcRx) (now : Nat) :
    concludeFrame (validate s p) now s = .next (s.raiseDiag .crcMismatch s.fCrcRx (crc16 (s.span p))) := by
  obtain ⟨-, hval⟩ | ⟨heq, -⟩ | ⟨heq, -⟩ := validate_cases s p
  · rw [hval, concludeFrame]
  all_goals exact absurd heq h

theorem concludeFrame_of_version_ne {s : State} {p : List Byte} (hc : crc16 (s.span p) = s.fCrcRx) (hv : s.fVersion ≠ protoVersion)
    (now : Nat) :
    concludeFrame (validate s p) now s = .next (s.raiseDiag .versionMismatch (zext16 s.fVersion) (zext16 protoVersion)) := by
  obtain ⟨hne, -⟩ | ⟨-, -, hval⟩ | ⟨-, heq, -⟩ := validate_cases s p
  · exact absurd hc hne
  · rw [hval, concludeFrame]
  · exact absurd heq hv

/-- The byte that completes the received CRC `rx`, by what follows the verdict (R131). -/
theorem exec_rxReadCrcHi_of_conclude {s u : State} {b : Byte} {now : Nat} {p : List Byte} {rx : Half} (hr : s.ready = true)
    (hm : s.hasRoom 2 = true) (hrx : rx = s.fCrcRx ||| (zext16 b <<< 8)) (hp : s.payload = some p)
    (hu : concludeFrame (validate (s.setCrcRx rx) p) now (s.setCrcRx rx) = .next u) :
    exec (.rxReadCrcHi b now) s = .next u.parserReset := by
  subst hrx
  exact execRxReadCrcHi_eq_next.2 ⟨hr, hm, p, u, hp, hu, rfl⟩

/-- Settles O26: the verdict on the state with the whole received CRC decides what is emitted before `parser_reset`. -/
theorem frameThatFailsValidationIsDropped : Obligations.FrameThatFailsValidationIsDropped := by
  rintro s b now p rx hr hm hf hl rfl hrx
  have hp := payload_some hl
  refine ⟨exec_rxByte_of_readCrcHi hf b now, fun hc => ?_, fun hc hv => ?_⟩
  · exact exec_rxReadCrcHi_of_conclude hr hm hrx hp (concludeFrame_of_crc_ne (s := s.setCrcRx rx) hc now)
  · exact exec_rxReadCrcHi_of_conclude hr hm hrx hp (concludeFrame_of_version_ne (s := s.setCrcRx rx) hc hv now)

end Sys2Proof.Machine
end

section
/-! The bytes of a frame from its version to its last payload byte, as the parser receives them (41_parser.md R124 to R129), and the CRC of
its span folded on the way (40_crc_validator.md R102). -/
namespace Sys2Proof.Machine

/-! ### A run of bytes in PBUF -/

/-- The bytes `l`, written one after the other from index `i` on. -/
def Memory.writeAll (m : Memory) (i : Nat) : List Byte → Memory
  | [] => m
  | b :: l => writeAll (Memory.write m i b) (i + 1) l

theorem Memory.read_writeAll_below (m : Memory) {i j : Nat} (h : j < i) (l : List Byte) :
    Memory.read (Memory.writeAll m i l) j = Memory.read m j := by
  induction l generalizing m i with
  | nil => rfl
  | cons b l ih => rw [writeAll, ih _ (Nat.lt_succ_of_lt h), Memory.read_write_other m b (Nat.ne_of_lt h)]

/-- A written run reads back as itself. -/
theorem Memory.map_read_writeAll (m : Memory) (i : Nat) (l : List Byte) :
    (List.range' i l.length).map (Memory.read (Memory.writeAll m i l)) = l := by
  induction l generalizing m i with
  | nil => rfl
  | cons b l ih =>
    rw [List.length_cons, List.range'_succ, List.map_cons, writeAll, ih,
      Memory.read_writeAll_below _ (Nat.lt_succ_self i), Memory.read_write_same]

/-! ### The header -/

/-- `s` after the five header bytes of a frame whose length is within the limit: the payload starts empty, and without one the CRC
follows. `rxStream_header` ties it to `RX_BYTE`. -/
def State.afterHeader (s : State) (version lo hi msgId seq : Byte) : State :=
  { s with fVersion := version, fLength := le16 lo hi, pCount := 0#8, fMsgId := msgId, fSeq := seq,
           fsm := if le16 lo hi = 0#16 then .readCrcLo else .readPayload }

theorem exec_rxByte_of_readVersion {s : State} (hr : s.ready = true) (hf : s.fsm = .readVersion) (b : Byte) (now : Nat) :
    exec (.rxByte b now) s = .next ((s.setVersion b).setFsm .readLenLo) := by
  simp only [exec, execRxByte, hf, execRxReadVersion, whenReady_of_ready hr]

theorem exec_rxByte_of_readLenLo {s : State} (hr : s.ready = true) (hf : s.fsm = .readLenLo) (b : Byte) (now : Nat) :
    exec (.rxByte b now) s = .next ((s.setLength (zext16 b)).setFsm .readLenHi) := by
  simp only [exec, execRxByte, hf, execRxReadLenLo, whenReady_of_ready hr]

/-- A length within the limit is kept (R126). -/
theorem exec_rxByte_of_readLenHi {s : State} (hr : s.ready = true) (hm : s.hasRoom 1 = true) (hf : s.fsm = .readLenHi) {b : Byte}
    (hl : (s.fLength ||| (zext16 b <<< 8)).toNat ≤ maxLen) (now : Nat) :
    exec (.rxByte b now) s = .next (((s.setLength (s.fLength ||| (zext16 b <<< 8))).setCount 0#8).setFsm .readMsgId) := by
  have hfits : lengthOverflows (s.fLength ||| (zext16 b <<< 8)).toNat = false := decide_eq_false (Nat.not_lt.2 hl)
  simp only [exec, execRxByte, hf, execRxReadLenHi, whenReady_of_ready hr, whenRoom_of_room hm, State.setLength_fLength, hfits,
    Bool.false_eq_true, if_false]

theorem exec_rxByte_of_readMsgId {s : State} (hr : s.ready = true) (hf : s.fsm = .readMsgId) (b : Byte) (now : Nat) :
    exec (.rxByte b now) s = .next ((s.setMsgId b).setFsm .readSeq) := by
  simp only [exec, execRxByte, hf, execRxReadMsgId, whenReady_of_ready hr]

theorem exec_rxByte_of_readSeq {s : State} (hr : s.ready = true) (hf : s.fsm = .readSeq) (b : Byte) (now : Nat) :
    exec (.rxByte b now) s = .next ((s.setSeq b).setFsm (if s.fLength = 0#16 then .readCrcLo else .readPayload)) := by
  simp only [exec, execRxByte, hf, execRxReadSeq, whenReady_of_ready hr]

/-- The five header bytes, at any times (R124 to R128). -/
theorem rxStream_header {s : State} (hs : s.receives) (hf : s.fsm = .readVersion) {version lo hi msgId seq : Byte}
    (hl : (le16 lo hi).toNat ≤ maxLen) {xs : List (Byte × Nat)} (hxs : xs.map Prod.fst = [version, lo, hi, msgId, seq]) :
    rxStream xs s = .next (s.afterHeader version lo hi msgId seq) := by
  obtain ⟨hr, hu⟩ := hs
  match xs, hxs with
  | [(_, n₁), (_, n₂), (_, n₃), (_, n₄), (_, n₅)], rfl =>
    have hver := exec_rxByte_of_readVersion hr hf version n₁
    have hlo := exec_rxByte_of_readLenLo (s := { s with fVersion := version, fsm := .readLenLo }) hr rfl lo n₂
    have hhi := exec_rxByte_of_readLenHi (s := { s with fVersion := version, fLength := zext16 lo, fsm := .readLenHi }) hr
      (State.hasRoom_of_unbounded hu 1) rfl hl n₃
    have hid := exec_rxByte_of_readMsgId
      (s := { s with fVersion := version, fLength := le16 lo hi, pCount := 0#8, fsm := .readMsgId }) hr rfl msgId n₄
    have hseq := exec_rxByte_of_readSeq
      (s := { s with fVersion := version, fLength := le16 lo hi, pCount := 0#8, fMsgId := msgId, fsm := .readSeq }) hr rfl seq n₅
    exact (stream_step hver _).trans <| (stream_step hlo _).trans <| (stream_step hhi _).trans <| (stream_step hid _).trans <|
      stream_step hseq []

/-! ### The payload -/

/-- The parser collects the payload: it waits for the CRC where `p_count` is `f_length`, and for a payload byte otherwise. -/
def State.collects (s : State) : Prop := s.fsm = if s.pCount.toNat = s.fLength.toNat then .readCrcLo else .readPayload

/-- `s` after the payload bytes `l`. `rxStream_payload` ties it to `RX_BYTE`. -/
def State.accumulate (s : State) (l : List Byte) : State :=
  { s with pbuf := Memory.writeAll s.pbuf s.pCount.toNat l, pCount := s.pCount + BitVec.ofNat 8 l.length,
           fsm := if s.pCount.toNat + l.length = s.fLength.toNat then .readCrcLo else .readPayload }

theorem State.accumulate_nil {s : State} (h : s.collects) : s.accumulate [] = s := by
  have hcount : s.pCount + 0#8 = s.pCount := BitVec.add_zero s.pCount
  unfold State.collects at h
  simp only [State.accumulate, Memory.writeAll, List.length_nil, Nat.add_zero, hcount, ← h]

theorem toNat_add_one_of_lt {c : Byte} (h : c.toNat < 128) : (c + 1#8).toNat = c.toNat + 1 := by bv_omega

theorem State.accumulate_singleton_collects {s : State} (hc : s.pCount.toNat < 128) (b : Byte) : (s.accumulate [b]).collects :=
  congrArg (fun n => if n = s.fLength.toNat then FsmState.readCrcLo else .readPayload) (toNat_add_one_of_lt hc).symm

theorem State.accumulate_cons {s : State} (hc : s.pCount.toNat < 128) (b : Byte) (l : List Byte) :
    (s.accumulate [b]).accumulate l = s.accumulate (b :: l) := by
  have hn : (s.pCount + BitVec.ofNat 8 [b].length).toNat = s.pCount.toNat + 1 := toNat_add_one_of_lt hc
  have hadd : s.pCount + BitVec.ofNat 8 [b].length + BitVec.ofNat 8 l.length = s.pCount + BitVec.ofNat 8 (b :: l).length := by
    rw [BitVec.add_assoc, ← BitVec.ofNat_add, List.length_singleton, List.length_cons, Nat.add_comm]
  have hlen : s.pCount.toNat + 1 + l.length = s.pCount.toNat + (b :: l).length := by rw [List.length_cons]; omega
  simp only [State.accumulate, hn, hadd, hlen, Memory.writeAll]

/-- One byte of the payload (R129). -/
theorem exec_rxByte_of_readPayload {s : State} (hr : s.ready = true) (hf : s.fsm = .readPayload) (hc : s.pCount.toNat < pbufEntries)
    (b : Byte) (now : Nat) : exec (.rxByte b now) s = .next (s.accumulate [b]) := by
  have hrow : exec (.rxByte b now) s = execRxReadPayload b s := by simp only [exec, execRxByte, hf]
  simp only [execRxReadPayload, whenReady_of_ready hr, if_pos hc] at hrow
  obtain ⟨-, hnext⟩ := rxByte_readPayload_cases hf hrow
  rw [hrow, hnext, toNat_add_one_of_lt hc]
  rfl

/-- The payload, or a first part of it, at any times (R129). -/
theorem rxStream_payload {s : State} (hr : s.ready = true) (hs : s.collects) (hl : s.fLength.toNat ≤ maxLen) {xs : List (Byte × Nat)}
    (hxs : s.pCount.toNat + xs.length ≤ s.fLength.toNat) : rxStream xs s = .next (s.accumulate (xs.map Prod.fst)) := by
  induction xs generalizing s with
  | nil => rw [List.map_nil, State.accumulate_nil hs]; rfl
  | cons x xs ih =>
    rw [List.length_cons] at hxs
    have hl' : s.fLength.toNat ≤ 128 := hl
    have hc : s.pCount.toNat < 128 := by omega
    have hf : s.fsm = .readPayload := hs.trans (if_neg (by omega))
    have hcount : (s.accumulate [x.1]).pCount.toNat = s.pCount.toNat + 1 := toNat_add_one_of_lt hc
    have hrest : (s.accumulate [x.1]).pCount.toNat + xs.length ≤ s.fLength.toNat := by omega
    calc rxStream (x :: xs) s
        = rxStream xs (s.accumulate [x.1]) := stream_step (exec_rxByte_of_readPayload hr hf hc x.1 x.2) xs
      _ = .next ((s.accumulate [x.1]).accumulate (xs.map Prod.fst)) :=
          ih (s := s.accumulate [x.1]) hr (State.accumulate_singleton_collects hc x.1) hl hrest
      _ = .next (s.accumulate ((x :: xs).map Prod.fst)) := congrArg _ (State.accumulate_cons hc x.1 _)

/-! ### The span -/

theorem State.afterHeader_collects (s : State) (version lo hi msgId seq : Byte) : (s.afterHeader version lo hi msgId seq).collects := by
  have hzero : le16 lo hi = 0#16 ↔ 0 = (le16 lo hi).toNat := by bv_omega
  simp only [State.collects, State.afterHeader, hzero, BitVec.toNat_zero]

/-- Header and payload, at any times (R124 to R129). -/
theorem rxStream_span {s : State} (hs : s.receives) (hf : s.fsm = .readVersion) {version lo hi msgId seq : Byte} {p : List Byte}
    (hl : (le16 lo hi).toNat = p.length) (hp : p.length ≤ maxLen) {xs : List (Byte × Nat)}
    (hxs : xs.map Prod.fst = [version, lo, hi, msgId, seq] ++ p) :
    rxStream xs s = .next ((s.afterHeader version lo hi msgId seq).accumulate p) := by
  obtain ⟨hd, tl, rfl, hhd, rfl⟩ := List.map_eq_append_iff.1 hxs
  rw [← hl] at hp
  rw [stream_append, rxStream_header hs hf hp hhd, andThen_next]
  have hlen : 0 + tl.length ≤ (le16 lo hi).toNat := by rw [hl, List.length_map, Nat.zero_add]
  exact rxStream_payload (s := s.afterHeader version lo hi msgId seq) hs.1 (s.afterHeader_collects version lo hi msgId seq) hp hlen

/-- A payload of the declared length, collected from an empty `p_count`, is the frame's payload (R27, R103). -/
theorem State.payload_accumulate {s : State} {p : List Byte} (hc : s.pCount = 0#8) (hl : s.fLength.toNat = p.length)
    (hp : p.length ≤ maxLen) : (s.accumulate p).payload = some p := by
  refine State.payload_eq_some.2 ⟨hl.trans_le hp, ?_⟩
  simp only [State.accumulate, hc, hl, BitVec.toNat_zero, List.range_eq_range', Memory.map_read_writeAll]

/-- Settles O42: the parser comes to `ReadCrcLo` with the fields and the payload it received, and the bytes received are their span. -/
theorem incrementalCrcAgreesWithTheSpan : Obligations.IncrementalCrcAgreesWithTheSpan := by
  intro s xs version lo hi msgId seq p hs hf hxs hl hp
  refine ⟨_, rxStream_span hs hf hl hp hxs, ?_, State.payload_accumulate rfl hl hp, ?_⟩
  · exact if_pos ((Nat.zero_add _).trans hl.symm)
  · have hspan : ((s.afterHeader version lo hi msgId seq).accumulate p).span p = xs.map Prod.fst := by
      simp only [State.span, spanOf, State.accumulate, State.afterHeader, loByte_le16, hiByte_le16, hxs]
    rw [hspan, crc16_eq_foldl]

end Sys2Proof.Machine
end

section
/-! The transitions of `RX_BYTE` (41_parser.md R120 to R130), each with its whole next state. -/
namespace Sys2Proof.Machine

/-! ### Which row runs, and when `now` is read -/

/-- `RX_BYTE` runs the row of the parser state and the byte (R91). -/
theorem exec_rxByte_of_fsm {s : State} {f : FsmState} (hf : s.fsm = f) (b : Byte) (now : Nat) :
    exec (.rxByte b now) s = exec (rxRow f b now) s := by
  rw [← hf, exec_rxRow]

/-- No row but that of `ReadCrcHi` has a time (R120). -/
theorem rxRow_now_irrelevant {f : FsmState} (hf : f ≠ .readCrcHi) (b : Byte) (m n : Nat) : rxRow f b m = rxRow f b n := by
  cases f
  case readCrcHi => exact absurd rfl hf
  all_goals rfl

/-- Settles O16: the two deliveries run one row. -/
theorem timeIsReadOnlyAtFrameCompletion : Obligations.TimeIsReadOnlyAtFrameCompletion := by
  intro s b m n hf
  rw [← exec_rxRow s b m, rxRow_now_irrelevant hf b m n, exec_rxRow]

/-! ### The sync marker -/

/-- A byte that is not `SYNC1` (R123), for both values of `SYNC1_REPLAY`. -/
theorem stWaitSync1Other_eq (b : Byte) (s : State) :
    stWaitSync1Other b s = s.setFsm (if b = sync0 ∧ s.cfg.sync1Replay = true then .waitSync1 else .waitSync0) := by
  cases hr : s.cfg.sync1Replay
  · simp only [stWaitSync1Other, State.setFsm_cfg, hr, Bool.false_eq_true, and_false, if_false]
  · simp only [stWaitSync1Other, State.setFsm_cfg, hr, if_true, and_true, stWaitSync0]
    split <;> rfl

/-- Settles O17: both rows are `st_wait_sync0`. -/
theorem waitSync0HuntsForTheFirstSyncByte : Obligations.WaitSync0HuntsForTheFirstSyncByte := by
  intro s b now hr hf
  refine ⟨?_, whenReady_of_ready hr _, fun hb => ?_⟩
  · rw [exec_rxByte_of_waitSync0 hf, whenReady_of_ready hr]
    rfl
  · have hstay : stWaitSync0 b s = s := if_neg hb
    exact (whenReady_of_ready hr _).trans (congrArg _ hstay)

/-- Settles O18: a byte that is not `SYNC1` is `st_wait_sync0` in `WaitSync0` under `SYNC1_REPLAY`, and lost otherwise. -/
theorem waitSync1ExpectsTheSecondSyncByte : Obligations.WaitSync1ExpectsTheSecondSyncByte := by
  intro s b now hr hf
  refine ⟨?_, whenReady_of_ready hr _, ?_, fun _ hb => ?_⟩
  · rw [exec_rxByte_of_waitSync1 hf, whenReady_of_ready hr, stWaitSync1Other_eq]
    split_ifs <;> rfl
  · refine (whenReady_of_ready hr _).trans (congrArg _ ((stWaitSync1Other_eq sync0 s).trans ?_))
    simp only [true_and]
    rfl
  · refine (whenReady_of_ready hr _).trans (congrArg _ ((stWaitSync1Other_eq b s).trans ?_))
    exact congrArg s.setFsm (if_neg fun h => hb h.1)

/-! ### The header -/

/-- Settles O19. -/
theorem readVersionCapturesTheVersion : Obligations.ReadVersionCapturesTheVersion :=
  fun _ b now hr hf => ⟨exec_rxByte_of_readVersion hr hf b now, whenReady_of_ready hr _⟩

/-- Settles O20. -/
theorem readLenLoCapturesTheLowLengthByte : Obligations.ReadLenLoCapturesTheLowLengthByte :=
  fun _ b now hr hf => ⟨exec_rxByte_of_readLenLo hr hf b now, whenReady_of_ready hr _⟩

/-- A length above the limit is reported, and the frame is abandoned (R126). -/
theorem exec_rxByte_of_readLenHi_overflow {s : State} (hr : s.ready = true) (hm : s.hasRoom 1 = true) (hf : s.fsm = .readLenHi) {b : Byte}
    (hl : maxLen < (s.fLength ||| (zext16 b <<< 8)).toNat) (now : Nat) :
    exec (.rxByte b now) s = .next ((s.setLength (s.fLength ||| (zext16 b <<< 8))).raiseDiag .lengthOverflow
      (s.fLength ||| (zext16 b <<< 8)) 0#16).parserReset := by
  have hover : lengthOverflows (s.fLength ||| (zext16 b <<< 8)).toNat = true := decide_eq_true hl
  simp only [exec, execRxByte, hf, execRxReadLenHi, whenReady_of_ready hr, whenRoom_of_room hm, State.setLength_fLength, hover, if_true]

/-- Settles O21: the two ends of the length check. -/
theorem readLenHiChecksTheLengthLimit : Obligations.ReadLenHiChecksTheLengthLimit := by
  rintro s b now n hr hm hf rfl
  have hrow := exec_rxByte_of_fsm hf b now
  exact ⟨hrow, fun hl => hrow.symm.trans (exec_rxByte_of_readLenHi hr hm hf hl now),
    fun hl => hrow.symm.trans (exec_rxByte_of_readLenHi_overflow hr hm hf hl now)⟩

/-- Settles O22. -/
theorem readMsgIdCapturesTheKind : Obligations.ReadMsgIdCapturesTheKind :=
  fun _ b now hr hf => ⟨exec_rxByte_of_readMsgId hr hf b now, whenReady_of_ready hr _⟩

/-- Settles O23. -/
theorem readSeqChoosesByTheLength : Obligations.ReadSeqChoosesByTheLength :=
  fun _ b now hr hf => ⟨exec_rxByte_of_readSeq hr hf b now, whenReady_of_ready hr _⟩

/-! ### The payload and the low CRC byte -/

/-- Settles O24: the next state is `s.accumulate [b]`, which writes PBUF once. -/
theorem readPayloadAppendsOneByte : Obligations.ReadPayloadAppendsOneByte := by
  intro s b now hr hf hc
  have hbyte := exec_rxByte_of_readPayload hr hf hc b now
  refine ⟨s.accumulate [b], hbyte, (exec_rxByte_of_fsm hf b now).symm.trans hbyte, ?_, fun a ha => ?_, rfl⟩
  · exact Memory.read_write_same s.pbuf s.pCount.toNat b
  · exact Memory.read_write_other s.pbuf b ha

theorem exec_rxByte_of_readCrcLo {s : State} (hr : s.ready = true) (hf : s.fsm = .readCrcLo) (b : Byte) (now : Nat) :
    exec (.rxByte b now) s = .next ((s.setCrcRx (zext16 b)).setFsm .readCrcHi) :=
  (exec_rxByte_of_fsm hf b now).trans (whenReady_of_ready hr _)

/-- Settles O25. -/
theorem readCrcLoCapturesTheLowCrcByte : Obligations.ReadCrcLoCapturesTheLowCrcByte :=
  fun _ b now hr hf => ⟨exec_rxByte_of_readCrcLo hr hf b now, whenReady_of_ready hr _⟩

/-! ### A frame that passes validation (R131) -/

/-- The verdict `Ok` leads to dispatch (R107). -/
theorem concludeFrame_of_ok {s : State} {p : List Byte} (hc : crc16 (s.span p) = s.fCrcRx) (hv : s.fVersion = protoVersion) (now : Nat) :
    concludeFrame (validate s p) now s = dispatch now s := by
  obtain ⟨hne, -⟩ | ⟨-, hne, -⟩ | ⟨-, -, hval⟩ := validate_cases s p
  · exact absurd hc hne
  · exact absurd hv hne
  · rw [hval, concludeFrame]

/-- Settles O27: the row of the msg_id is the dispatch of the state that holds the whole received CRC. -/
theorem frameThatPassesValidationIsDispatched : Obligations.FrameThatPassesValidationIsDispatched := by
  intro s b now rx hr hm hf hl hrx hv hc
  obtain ⟨t, ht⟩ := dispatch_total (s := s.setCrcRx rx) now hr hm hl
  have hconclude := (concludeFrame_of_ok (s := s.setCrcRx rx) hc hv now).trans ht
  have hhi := exec_rxReadCrcHi_of_conclude hr hm hrx (payload_some hl) hconclude
  exact ⟨msgRow s.fMsgId now, t, rfl, (exec_msgRow (s.setCrcRx rx) now).trans ht, (exec_rxByte_of_readCrcHi hf b now).trans hhi, hhi⟩

end Sys2Proof.Machine
end

section
/-! A whole frame in the received stream (41_parser.md R132, R134, R135): how the parser comes to its last byte, and what follows. -/
namespace Sys2Proof.Machine

/-! ### A frame on the wire (R82) -/

/-- The fields of a byte string laid out as a frame, whatever its CRC. `frameShaped_iff` ties it to `frameShaped`. -/
structure WireFrame where
  version : Byte
  length : Half
  msgId : Byte
  seq : Byte
  payload : List Byte
  crc : Half

/-- What the CRC covers (R103). -/
def WireFrame.span (f : WireFrame) : List Byte := spanOf f.version f.length f.msgId f.seq f.payload

def WireFrame.bytes (f : WireFrame) : List Byte := [sync0, sync1] ++ f.span ++ [loByte f.crc, hiByte f.crc]

/-- The payload has the declared length, and PBUF has room for it. -/
def WireFrame.fits (f : WireFrame) : Prop := f.length.toNat = f.payload.length ∧ f.payload.length ≤ maxLen

theorem frameShaped_iff {n : Nat} {F : List Byte} :
    frameShaped n F ∧ n ≤ maxLen ↔ ∃ f : WireFrame, f.fits ∧ f.length.toNat = n ∧ F = f.bytes := by
  constructor
  · rintro ⟨⟨version, lo, hi, msgId, seq, p, crcLo, crcHi, rfl, hn, hp⟩, hl⟩
    refine ⟨⟨version, le16 lo hi, msgId, seq, p, le16 crcLo crcHi⟩, ⟨hn.trans hp.symm, hp.trans_le hl⟩, hn, ?_⟩
    simp only [WireFrame.bytes, WireFrame.span, spanOf, loByte_le16, hiByte_le16, List.cons_append, List.nil_append]
  · rintro ⟨f, ⟨hl, hp⟩, rfl, rfl⟩
    exact ⟨⟨_, _, _, _, _, _, _, _, rfl, congrArg _ (le16_loByte_hiByte f.length), hl.symm⟩, hl.trans_le hp⟩

/-- The frame that `encode` writes (R181). -/
def WireFrame.encoded (msgId seq : Byte) (p : List Byte) : WireFrame where
  version := protoVersion
  length := BitVec.ofNat 16 p.length
  msgId := msgId
  seq := seq
  payload := p
  crc := crc16 (spanOf protoVersion (BitVec.ofNat 16 p.length) msgId seq p)

theorem WireFrame.encoded_bytes (msgId seq : Byte) (p : List Byte) : (encoded msgId seq p).bytes = encodeFrame msgId seq p := rfl

theorem WireFrame.encoded_fits (msgId seq : Byte) {p : List Byte} (hp : p.length ≤ maxLen) : (encoded msgId seq p).fits := by
  have hp' : p.length ≤ 128 := hp
  exact ⟨Nat.mod_eq_of_lt (by omega), hp⟩

/-! ### Up to the last byte -/

/-- The two sync bytes, at any times (R122, R123). -/
theorem rxStream_sync {s : State} (hr : s.ready = true) (hf : s.fsm = .waitSync0) {xs : List (Byte × Nat)}
    (hxs : xs.map Prod.fst = [sync0, sync1]) : rxStream xs s = .next (s.setFsm .readVersion) := by
  match xs, hxs with
  | [(_, m), (_, n)], rfl =>
    obtain ⟨h0, -⟩ := waitSync0HuntsForTheFirstSyncByte s sync0 m hr hf
    obtain ⟨h1, -⟩ := waitSync1ExpectsTheSecondSyncByte (s.setFsm .waitSync1) sync1 n hr rfl
    exact (stream_step h0 _).trans (stream_step h1 [])

/-- `s` after the sync bytes and the span. `rxStream_frame_span` ties it to `RX_BYTE`. -/
def State.afterSpan (s : State) (f : WireFrame) : State :=
  ({ s with fVersion := f.version, fLength := f.length, pCount := 0#8, fMsgId := f.msgId, fSeq := f.seq } : State).accumulate f.payload

theorem State.afterSpan_fsm (s : State) {f : WireFrame} (hfit : f.fits) : (s.afterSpan f).fsm = .readCrcLo :=
  if_pos ((Nat.zero_add _).trans hfit.1.symm)

theorem State.afterSpan_payload (s : State) {f : WireFrame} (hfit : f.fits) : (s.afterSpan f).payload = some f.payload :=
  State.payload_accumulate rfl hfit.1 hfit.2

theorem rxStream_frame_span {s : State} (hs : s.receives) (hf : s.fsm = .waitSync0) {f : WireFrame} (hfit : f.fits)
    {xs : List (Byte × Nat)} (hxs : xs.map Prod.fst = [sync0, sync1] ++ f.span) : rxStream xs s = .next (s.afterSpan f) := by
  obtain ⟨sync, span, rfl, hsync, hspan⟩ := List.map_eq_append_iff.1 hxs
  obtain ⟨hl, hp⟩ := hfit
  have hlen : (le16 (loByte f.length) (hiByte f.length)).toNat = f.payload.length := by rw [le16_loByte_hiByte, hl]
  rw [stream_append, rxStream_sync hs.1 hf hsync, andThen_next, rxStream_span (s := s.setFsm .readVersion) hs rfl hlen hp hspan,
    State.afterHeader, le16_loByte_hiByte]
  rfl

/-- `s` after every byte of the frame but the last. -/
def State.afterCrcLo (s : State) (f : WireFrame) : State := ((s.afterSpan f).setCrcRx (zext16 (loByte f.crc))).setFsm .readCrcHi

theorem rxStream_singleton (b : Byte) (now : Nat) (s : State) : rxStream [(b, now)] s = exec (.rxByte b now) s := by
  simp only [rxStream]
  cases exec (.rxByte b now) s <;> rfl

/-- A frame is its last byte, in the state that the others leave: of the times, only the last byte's is left. -/
theorem rxStream_frame {s : State} (hs : s.receives) (hf : s.fsm = .waitSync0) {f : WireFrame} (hfit : f.fits) {xs : List (Byte × Nat)}
    (hxs : xs.map Prod.fst = f.bytes) :
    ∃ now, xs.getLast?.map Prod.snd = some now ∧ rxStream xs s = exec (.rxReadCrcHi (hiByte f.crc) now) (s.afterCrcLo f) := by
  obtain ⟨span, crc, rfl, hspan, hcrc⟩ := List.map_eq_append_iff.1 hxs
  match crc, hcrc with
  | [(_, m), (_, now)], rfl =>
    have hlo := exec_rxByte_of_readCrcLo (s := s.afterSpan f) hs.1 (s.afterSpan_fsm hfit) (loByte f.crc) m
    refine ⟨now, by rw [List.getLast?_append]; rfl, ?_⟩
    calc rxStream (span ++ [(loByte f.crc, m), (hiByte f.crc, now)]) s
        = rxStream [(loByte f.crc, m), (hiByte f.crc, now)] (s.afterSpan f) := by
          rw [stream_append, rxStream_frame_span hs hf hfit hspan, andThen_next]
      _ = rxStream [(hiByte f.crc, now)] (s.afterCrcLo f) := stream_step hlo _
      _ = exec (.rxReadCrcHi (hiByte f.crc) now) (s.afterCrcLo f) := by
          rw [rxStream_singleton]
          exact exec_rxByte_of_readCrcHi rfl _ now

/-! ### Chunks (R132) -/

theorem foldl_chunks (chunks : List (List (Byte × Nat))) (r : Result) :
    chunks.foldl (fun r chunk => andThen r (rxStream chunk)) r = andThen r (rxStream chunks.flatten) := by
  induction chunks generalizing r with
  | nil => cases r <;> rfl
  | cons chunk chunks ih =>
    have happend : (fun s => andThen (rxStream chunk s) (rxStream chunks.flatten)) = rxStream (chunk :: chunks).flatten :=
      funext fun s => (stream_append chunk chunks.flatten s).symm
    rw [List.foldl_cons, ih, andThen_assoc, happend]

/-- Settles O55: chunks by appending streams, times by `rxStream_frame`. -/
theorem chunkingDoesNotChangeTheResult : Obligations.ChunkingDoesNotChangeTheResult := by
  refine ⟨fun s chunks => foldl_chunks chunks (.next s), fun s => rfl, fun s xs ys n hs hf hn hshape hfst hlast => ?_⟩
  obtain ⟨f, hfit, -, hbytes⟩ := frameShaped_iff.1 ⟨hshape, hn⟩
  obtain ⟨m, hm, hxs⟩ := rxStream_frame hs hf hfit hbytes
  obtain ⟨m', hm', hys⟩ := rxStream_frame hs hf hfit (hfst.trans hbytes)
  have htime : m' = m := Option.some.inj (hm'.symm.trans (hlast.trans hm))
  rw [hxs, hys, htime]

/-! ### What follows a frame (R131, R134) -/

/-- `s` leads to `t` by the frame `f`: what is emitted, and what becomes of PEND (R105, R107, R108, R150). -/
inductive WireFrame.Outcome (f : WireFrame) (s t : State) : Prop
  | crcMismatch (hcrc : crc16 f.span ≠ f.crc) (hpend : t.pend = s.pend)
      (hevq : t.evq = s.evq ++ [.diag .crcMismatch f.crc (crc16 f.span)])
  | versionMismatch (hcrc : crc16 f.span = f.crc) (hversion : f.version ≠ protoVersion) (hpend : t.pend = s.pend)
      (hevq : t.evq = s.evq ++ [.diag .versionMismatch (zext16 f.version) (zext16 protoVersion)])
  | plain (hcrc : crc16 f.span = f.crc) (hversion : f.version = protoVersion) (hid : f.msgId ≠ ackMsgId) (hpend : t.pend = s.pend)
      (hevq : t.evq = s.evq ++ [.frame f.version f.msgId f.seq f.length f.payload])
  | ack (hcrc : crc16 f.span = f.crc) (hversion : f.version = protoVersion) (hid : f.msgId = ackMsgId)
      (hpend : ∀ k, k ≠ f.seq → t.pendAt k = s.pendAt k) (l : List Event)
      (hevq : t.evq = s.evq ++ .frame f.version f.msgId f.seq f.length f.payload :: l)
      (hrtt : l = [] ∨ ackMinLen ≤ f.payload.length ∧ (s.pendAt f.seq).valid = true ∧ ∃ r c u w, l = [.rtt f.seq r c u w])

theorem concludeFrame_total {s : State} (v : Verdict) (now : Nat) (hr : s.ready = true) (hm : s.hasRoom 2 = true)
    (hl : s.fLength.toNat ≤ maxLen) : ∃ u, concludeFrame v now s = .next u := by
  cases v with
  | ok => exact dispatch_total now hr hm hl
  | crcMismatch rx computed => exact ⟨_, rfl⟩
  | versionMismatch v => exact ⟨_, rfl⟩

theorem State.sameModel.trans {s t u : State} (h : s.sameModel t) (h' : t.sameModel u) : s.sameModel u := by
  obtain ⟨hcfg, hready, hlink, hinput⟩ := h
  obtain ⟨hcfg', hready', hlink', hinput'⟩ := h'
  exact ⟨hcfg'.trans hcfg, hready'.trans hready, hlink'.trans hlink, hinput'.trans hinput⟩

theorem State.parserReset_initial (s : State) : s.parserReset.parserInitial := ⟨rfl, rfl, rfl, rfl, rfl, rfl, rfl⟩

/-- The state with the whole received CRC, from which the verdict follows. -/
def State.frameReceived (s : State) (f : WireFrame) : State := (s.afterCrcLo f).setCrcRx f.crc

theorem State.frameReceived_span (s : State) (f : WireFrame) : (s.frameReceived f).span f.payload = f.span := rfl

theorem State.frameReceived_fCrcRx (s : State) (f : WireFrame) : (s.frameReceived f).fCrcRx = f.crc := rfl

theorem State.frameReceived_unchanged (s : State) (f : WireFrame) : (s.frameReceived f).pend = s.pend ∧ (s.frameReceived f).evq = s.evq ∧
    (s.frameReceived f).txq = s.txq ∧ s.sameModel (s.frameReceived f) := ⟨rfl, rfl, rfl, rfl, rfl, rfl, rfl⟩

/-- The end of an Ack, from a state that has emitted its frame. -/
theorem ackCorrelate_outcome {s v : State} {f : WireFrame} (now : Nat) (hcrc : crc16 f.span = f.crc) (hver : f.version = protoVersion)
    (hid : f.msgId = ackMsgId) (hseq : v.fSeq = f.seq) (hlen : v.fLength.toNat = f.payload.length) (hpend : v.pend = s.pend)
    (hevq : v.evq = s.evq ++ [.frame f.version f.msgId f.seq f.length f.payload]) : f.Outcome s (ackCorrelate now v).parserReset := by
  obtain ⟨-, -, -, hends, hentry⟩ := ack_frame now v
  have hread : ∀ k, v.pendAt k = s.pendAt k := fun k => congrArg (PendFile.read · k.toNat) hpend
  have hother : ∀ k, k ≠ f.seq → (ackCorrelate now v).pendAt k = s.pendAt k := fun k hk =>
    (not_imp_comm.1 (fun h => (hentry k h).1.trans hseq) hk).trans (hread k)
  obtain hnone | ⟨r, c, u, w, hrtt, hlong, hvalid⟩ := hends
  · exact .ack hcrc hver hid hother [] (hnone.trans hevq) (.inl rfl)
  · rw [hseq, hread] at hvalid
    rw [hevq, List.append_assoc, hseq] at hrtt
    exact .ack hcrc hver hid hother _ hrtt (.inr ⟨hlen ▸ hlong, hvalid, r, c, u, w, rfl⟩)

/-- The verdict and the dispatch of a received frame, as an outcome. -/
theorem frameReceived_outcome {s u : State} {f : WireFrame} {now : Nat} (hp : (s.frameReceived f).payload = some f.payload)
    (hlen : f.length.toNat = f.payload.length)
    (hu : concludeFrame (validate (s.frameReceived f) f.payload) now (s.frameReceived f) = .next u) :
    u.txq = s.txq ∧ s.sameModel u ∧ f.Outcome s u.parserReset := by
  have hends := conclude_cases hp hu
  rw [s.frameReceived_span f, s.frameReceived_fCrcRx f] at hends
  obtain ⟨hpend, hevq, htxq, hmodel⟩ := s.frameReceived_unchanged f
  obtain ⟨hcrc, rfl⟩ | ⟨hcrc, hver, rfl⟩ | ⟨hcrc, hver, hid, rfl⟩ | ⟨hcrc, hver, hid, rfl⟩ := hends
  · exact ⟨htxq, hmodel, .crcMismatch hcrc hpend (congrArg (· ++ _) hevq)⟩
  · exact ⟨htxq, hmodel, .versionMismatch hcrc hver hpend (congrArg (· ++ _) hevq)⟩
  · exact ⟨htxq, hmodel, .plain hcrc hver hid hpend (congrArg (· ++ _) hevq)⟩
  · let v := (s.frameReceived f).emit (.frame f.version f.msgId f.seq f.length f.payload)
    obtain ⟨hatxq, -, hamodel, -⟩ := ack_frame now v
    have hvtxq : v.txq = s.txq := htxq
    have hvmodel : s.sameModel v := hmodel
    exact ⟨hatxq.trans hvtxq, hvmodel.trans hamodel, ackCorrelate_outcome now hcrc hver hid rfl hlen hpend (congrArg (· ++ _) hevq)⟩

/-- A frame completes, and leaves the parser reset, `txq` and the model's own fields as they were, and one of the outcomes. -/
theorem rxStream_frame_outcome {s : State} (hs : s.receives) (hf : s.fsm = .waitSync0) {f : WireFrame} (hfit : f.fits)
    {xs : List (Byte × Nat)} (hxs : xs.map Prod.fst = f.bytes) :
    ∃ t, rxStream xs s = .next t ∧ t.parserInitial ∧ t.txq = s.txq ∧ s.sameModel t ∧ f.Outcome s t := by
  obtain ⟨now, -, hlast⟩ := rxStream_frame hs hf hfit hxs
  have hroom : (s.afterCrcLo f).hasRoom 2 = true := State.hasRoom_of_unbounded hs.2 2
  have hp : (s.frameReceived f).payload = some f.payload := s.afterSpan_payload hfit
  obtain ⟨u, hu⟩ := concludeFrame_total (validate (s.frameReceived f) f.payload) now (s := s.frameReceived f) hs.1 hroom
    (hfit.1.trans_le hfit.2)
  have hnext := exec_rxReadCrcHi_of_conclude (s := s.afterCrcLo f) hs.1 hroom (le16_loByte_hiByte f.crc).symm hp hu
  obtain ⟨htxq, hmodel, hout⟩ := frameReceived_outcome hp hfit.1 hu
  exact ⟨_, hlast.trans hnext, u.parserReset_initial, htxq, hmodel, hout⟩

/-! ### A header whose length is above the limit (R126, R134) -/

/-- The five bytes up to the length, at any times. -/
theorem rxStream_overflow {s : State} (hs : s.receives) (hf : s.fsm = .waitSync0) {version lo hi : Byte}
    (hl : maxLen < (le16 lo hi).toNat) {xs : List (Byte × Nat)} (hxs : xs.map Prod.fst = [sync0, sync1, version, lo, hi]) :
    rxStream xs s = .next (({ s with fVersion := version, fLength := le16 lo hi } : State).raiseDiag .lengthOverflow (le16 lo hi)
      0#16).parserReset := by
  have hsplit : xs.map Prod.fst = [sync0, sync1] ++ [version, lo, hi] := hxs
  obtain ⟨sync, header, rfl, hsync, hheader⟩ := List.map_eq_append_iff.1 hsplit
  obtain ⟨hr, hu⟩ := hs
  rw [stream_append, rxStream_sync hr hf hsync, andThen_next]
  match header, hheader with
  | [(_, n₁), (_, n₂), (_, n₃)], rfl =>
    have hver := exec_rxByte_of_readVersion (s := s.setFsm .readVersion) hr rfl version n₁
    have hlo := exec_rxByte_of_readLenLo (s := { s with fVersion := version, fsm := .readLenLo }) hr rfl lo n₂
    have hhi := exec_rxByte_of_readLenHi_overflow (s := { s with fVersion := version, fLength := zext16 lo, fsm := .readLenHi }) hr
      (State.hasRoom_of_unbounded hu 1) rfl hl n₃
    exact (stream_step hver _).trans <| (stream_step hlo _).trans <| stream_step hhi []

/-- Settles O56: a frame by its outcome, and a header that is too long by its five bytes. -/
theorem frameIsConsumedWhole : Obligations.FrameIsConsumedWhole := by
  refine ⟨fun s xs n hs hf hn hshape => ?_, fun s xs version lo hi hs hf hxs hl => ?_⟩
  · obtain ⟨f, hfit, -, hbytes⟩ := frameShaped_iff.1 ⟨hshape, hn⟩
    obtain ⟨t, ht, hinit, htxq, hmodel, hout⟩ := rxStream_frame_outcome hs hf hfit hbytes
    cases hout with
    | crcMismatch hcrc hpend hevq => exact ⟨t, _, ht, hinit, hevq, htxq, hmodel, .inr (.inr (.inl ⟨_, _, rfl⟩))⟩
    | versionMismatch hcrc hver hpend hevq => exact ⟨t, _, ht, hinit, hevq, htxq, hmodel, .inr (.inr (.inr ⟨_, _, rfl⟩))⟩
    | plain hcrc hver hid hpend hevq => exact ⟨t, _, ht, hinit, hevq, htxq, hmodel, .inl ⟨_, _, _, _, _, rfl⟩⟩
    | ack hcrc hver hid hpend l hevq hrtt =>
      refine ⟨t, _, ht, hinit, hevq, htxq, hmodel, ?_⟩
      obtain rfl | ⟨-, -, r, c, u, w, rfl⟩ := hrtt
      · exact .inl ⟨_, _, _, _, _, rfl⟩
      · exact .inr (.inl ⟨f.seq, f.length, f.payload, r, c, u, w, by rw [hver, hid]⟩)
  · exact ⟨_, rxStream_overflow hs hf hl hxs, State.parserReset_initial _, rfl, rfl, rfl, rfl, rfl, rfl, rfl⟩

/-! ### A corrupted frame, and the frame after it (R109, R135) -/

/-- R109 at a place in the last part of a span. -/
theorem crc16_append_set_ne (m : List Byte) {l : List Byte} {i : Nat} (hi : i < l.length) {x : Byte} (hx : l[i]? ≠ some x) :
    crc16 (m ++ l.set i x) ≠ crc16 (m ++ l) := by
  have hne : x ≠ l[i] := fun h => hx (by rw [List.getElem?_eq_getElem hi, h])
  have hset : m ++ l.set i x = m ++ l.take i ++ x :: l.drop (i + 1) := by
    rw [List.set_eq_take_append_cons_drop, if_pos hi, List.append_assoc]
  have hl : m ++ l = m ++ l.take i ++ l[i] :: l.drop (i + 1) := by
    rw [List.getElem_cons_drop, List.append_assoc, List.take_append_drop]
  rw [hset, hl]
  exact oneCorruptedByteChangesTheCrc _ _ x l[i] hne

/-- The seven bytes before the payload (R82). -/
def WireFrame.header (f : WireFrame) : List Byte := [sync0, sync1, f.version, loByte f.length, hiByte f.length, f.msgId, f.seq]

/-- The bytes after the header: the payload and the CRC. -/
def WireFrame.tail (f : WireFrame) : List Byte := f.payload ++ [loByte f.crc, hiByte f.crc]

theorem WireFrame.bytes_eq (f : WireFrame) : f.bytes = f.header ++ f.tail := by
  simp only [bytes, span, spanOf, header, tail, List.cons_append, List.nil_append]

theorem WireFrame.getElem?_bytes (f : WireFrame) (i : Nat) : f.bytes[7 + i]? = f.tail[i]? := by
  have hi : 7 + i - f.header.length = i := Nat.add_sub_cancel_left 7 i
  rw [bytes_eq, List.getElem?_append_right (Nat.le_add_right 7 i), hi]

theorem WireFrame.bytes_eq_set {f g : WireFrame} (hheader : g.header = f.header) {i : Nat} {x : Byte} (htail : g.tail = f.tail.set i x) :
    g.bytes = f.bytes.set (7 + i) x := by
  have hi : 7 + i - f.header.length = i := Nat.add_sub_cancel_left 7 i
  rw [bytes_eq, bytes_eq, List.set_append_right _ _ (Nat.le_add_right 7 i), hi, hheader, htail]

/-- A frame with a right CRC and one changed byte in its payload or its CRC is a frame whose CRC is wrong. -/
theorem WireFrame.corrupted {f : WireFrame} (hf : f.fits) (hcrc : crc16 f.span = f.crc) {i : Nat} (hi : i < f.payload.length + 2)
    {x : Byte} (hx : f.bytes[7 + i]? ≠ some x) :
    ∃ g : WireFrame, g.fits ∧ g.bytes = f.bytes.set (7 + i) x ∧ crc16 g.span ≠ g.crc := by
  rw [getElem?_bytes] at hx
  obtain hlt | rfl | rfl : i < f.payload.length ∨ i = f.payload.length ∨ i = f.payload.length + 1 := by omega
  case inl =>
    rw [tail, List.getElem?_append_left hlt] at hx
    refine ⟨{ f with payload := f.payload.set i x }, ?_, ?_, ?_⟩
    · simpa only [fits, List.length_set] using hf
    · refine bytes_eq_set ?_ (List.set_append_left i x hlt).symm
      rfl
    · rw [← hcrc]
      exact crc16_append_set_ne [f.version, loByte f.length, hiByte f.length, f.msgId, f.seq] hlt hx
  case inr.inl =>
    have hlo : f.tail[f.payload.length]? = some (loByte f.crc) := by simp [tail]
    refine ⟨{ f with crc := le16 x (hiByte f.crc) }, hf, ?_, fun h => hx (hlo.trans ?_)⟩
    · refine bytes_eq_set ?_ (by simp [tail])
      rfl
    · exact congrArg some ((congrArg loByte (hcrc.symm.trans h)).trans (loByte_le16 x _))
  case inr.inr =>
    have hhi : f.tail[f.payload.length + 1]? = some (hiByte f.crc) := by simp [tail]
    refine ⟨{ f with crc := le16 (loByte f.crc) x }, hf, ?_, fun h => hx (hhi.trans ?_)⟩
    · refine bytes_eq_set ?_ (by simp [tail])
      rfl
    · exact congrArg some ((congrArg hiByte (hcrc.symm.trans h)).trans (hiByte_le16 _ x))

theorem State.sameModel.receives {s t : State} (h : s.sameModel t) (hs : s.receives) : t.receives := by
  obtain ⟨hcfg, hready, -⟩ := h
  exact ⟨hready.trans hs.1, (congrArg Config.evqDepth hcfg).trans hs.2⟩

/-- Settles O58: the outcome of the first frame can only be `crcMismatch`, and that of the second only `plain`. -/
theorem corruptedFrameIsDroppedAndTheNextReceived : Obligations.CorruptedFrameIsDroppedAndTheNextReceived := by
  intro s m₁ q₁ m₂ q₂ p₁ p₂ now i x hs hf hp₁ hp₂ hi hx hm₂
  have hfst : ∀ l : List Byte, (l.map fun b => (b, now)).map Prod.fst = l := fun l => by rw [List.map_map]; exact List.map_id l
  obtain ⟨g, hgfit, hgbytes, hgcrc⟩ := WireFrame.corrupted (WireFrame.encoded_fits m₁ q₁ hp₁) rfl hi hx
  obtain ⟨t, ht, ⟨hfsm, -⟩, htxq, hmodel, hout⟩ := rxStream_frame_outcome hs hf hgfit ((hfst _).trans hgbytes.symm)
  obtain ⟨u, hu, hinit, hutxq, humodel, huout⟩ := rxStream_frame_outcome (hmodel.receives hs) hfsm (WireFrame.encoded_fits m₂ q₂ hp₂)
    ((hfst _).trans (WireFrame.encoded_bytes m₂ q₂ p₂).symm)
  obtain ⟨-, hpend, hevq⟩ | ⟨hcrc, -⟩ | ⟨hcrc, -⟩ | ⟨hcrc, -⟩ := hout
  case crcMismatch =>
    obtain ⟨hcrc, -⟩ | ⟨-, hver, -⟩ | ⟨-, -, -, hupend, huevq⟩ | ⟨-, -, hid, -⟩ := huout
    case crcMismatch => exact absurd rfl hcrc
    case versionMismatch => exact absurd rfl hver
    case ack => exact absurd hid hm₂
    case plain =>
      refine ⟨u, g.crc, crc16 g.span, ?_, hinit, ?_, hupend.trans hpend, hutxq.trans htxq, hmodel.trans humodel⟩
      · rw [rxChunk, List.map_append, stream_append]
        exact (congrArg (andThen · _) ht).trans hu
      · rw [huevq, hevq, List.append_assoc]
        rfl
  all_goals exact absurd hcrc hgcrc

end Sys2Proof.Machine
end

section
/-! The correlator (42_correlator.md): when an entry has expired (R164), what an Ack (R150 to R159) and `SWEEP` (R165) do to the entries,
and what a send records (R160 to R163). -/
namespace Sys2Proof.Machine

/-! ### Expiry (R164) -/

theorem expired_of_none {c : Config} (h : c.ackExpiry = none) (ts now : Nat) : expired c ts now = false := by
  simp only [expired, h]

theorem expired_iff {c : Config} {horizon ts r now : Nat} (h : c.ackExpiry = some horizon) (he : elapsesTo c ts r now) :
    expired c ts now = true ↔ horizon < r := by
  rw [(tsSub_spec c ts now).2 r he]
  simp only [expired, h, decide_eq_true_eq]

theorem expired_eq_false {c : Config} {ts r now : Nat} (he : elapsesTo c ts r now)
    (hr : ∀ horizon, c.ackExpiry = some horizon → r ≤ horizon) : expired c ts now = false := by
  cases hc : c.ackExpiry with
  | none => exact expired_of_none hc ts now
  | some horizon => exact Bool.eq_false_iff.2 fun hexp => Nat.not_lt.2 (hr horizon hc) ((expired_iff hc he).1 hexp)

/-- Settles O32: the one elapsed time is `tsSub`. -/
theorem expiryComparesTheElapsedTime : Obligations.ExpiryComparesTheElapsedTime := by
  intro c ts now
  obtain ⟨helapses, hunique⟩ := tsSub_spec c ts now
  exact ⟨fun h => expired_of_none h ts now, fun horizon h => ⟨_, helapses, hunique, expired_iff h helapses⟩⟩

/-! ### An Ack (R150 to R159) -/

/-- A short Ack, and one whose entry is not pending, are not correlated (R152, R158). -/
theorem ackCorrelate_of_unmatched {s : State} (now : Nat) (h : s.fLength.toNat < ackMinLen ∨ (s.pendAt s.fSeq).valid = false) :
    ackCorrelate now s = s := by
  obtain ⟨hsame, -⟩ | ⟨hlong, hvalid, -⟩ | ⟨hlong, hvalid, -⟩ := ackCorrelate_cases now s
  · exact hsame
  all_goals simp [Nat.not_lt.2 hlong, hvalid] at h

/-- A full Ack whose entry is pending clears the entry, and reports the elapsed time unless the entry has expired (R150, R157). -/
theorem ackCorrelate_of_pending {s : State} (now : Nat) (hlong : ackMinLen ≤ s.fLength.toNat) (hvalid : (s.pendAt s.fSeq).valid = true) :
    (ackCorrelate now s).evq = s.evq ++ (if expired s.cfg (s.pendAt s.fSeq).ts now then []
      else [.rtt s.fSeq (tsSub s.cfg now (s.pendAt s.fSeq).ts) s.ackCmdId s.ackStatus s.ackInfo]) ∧
    ((ackCorrelate now s).pendAt s.fSeq).valid = false := by
  have hclear := congrArg PendEntry.valid (pendAt_writePend_same s s.fSeq ⟨false, (s.pendAt s.fSeq).ts⟩)
  obtain ⟨-, hshort | hinvalid⟩ | ⟨-, -, hexp, hack⟩ | ⟨-, -, hexp, hack⟩ := ackCorrelate_cases now s
  · exact absurd hlong (Nat.not_le.2 hshort)
  · exact absurd (hvalid.symm.trans hinvalid) (by decide)
  · rw [hack, hexp]
    exact ⟨(List.append_nil _).symm, hclear⟩
  · rw [hack, hexp]
    exact ⟨rfl, hclear⟩

/-- `MSG.Ack` with a full payload and a pending entry: `EV_FRAME` and then the correlator's report, if there is one (R107, R159). -/
theorem exec_msgAck_of_pending {s : State} (now : Nat) (hr : s.ready = true) (hm : s.hasRoom 2 = true)
    (hlong : ackMinLen ≤ s.fLength.toNat) (hl : s.fLength.toNat ≤ 128) (hvalid : (s.pendAt s.fSeq).valid = true) :
    ∃ t, exec (.msgAck now) s = .next t ∧
      t.evq = s.evq ++ .frame s.fVersion s.fMsgId s.fSeq s.fLength ((List.range s.fLength.toNat).map (Memory.read s.pbuf)) ::
        (if expired s.cfg (s.pendAt s.fSeq).ts now then []
          else [.rtt s.fSeq (tsSub s.cfg now (s.pendAt s.fSeq).ts) s.ackCmdId s.ackStatus s.ackInfo]) ∧
      (t.pendAt s.fSeq).valid = false ∧ (∀ k, k ≠ s.fSeq → t.pendAt k = s.pendAt k) ∧
      s.sameParser t ∧ t.txq = s.txq ∧ s.sameModel t := by
  let v := s.emit (.frame s.fVersion s.fMsgId s.fSeq s.fLength ((List.range s.fLength.toNat).map (Memory.read s.pbuf)))
  obtain ⟨hevq, hclear⟩ := ackCorrelate_of_pending (s := v) now hlong hvalid
  obtain ⟨htxq, hparser, hmodel, -, hpend⟩ := ack_frame now v
  have hother : ∀ k, k ≠ s.fSeq → (ackCorrelate now v).pendAt k = s.pendAt k := fun k hk => not_imp_comm.1 (fun h => (hpend k h).1) hk
  exact ⟨ackCorrelate now v, ack_of now hr hm hl, hevq.trans (List.append_assoc _ _ _), hclear, hother, hparser, htxq, hmodel⟩

/-- Settles O29: the entry has not expired, and `tsSub` is the time that has elapsed. -/
theorem matchedAckReportsItsRoundTripTime : Obligations.MatchedAckReportsItsRoundTripTime := by
  intro s now r hr hm hlong hl hvalid he hin
  obtain ⟨t, ht, hevq, hrest⟩ := exec_msgAck_of_pending now hr hm hlong hl hvalid
  rw [expired_eq_false he hin, ← (tsSub_spec s.cfg _ now).2 r he] at hevq
  exact ⟨t, ht, hevq, hrest⟩

/-- Settles O30: the entry has expired, so there is no report. -/
theorem expiredAckRemovesItsEntrySilently : Obligations.ExpiredAckRemovesItsEntrySilently := by
  intro s now r horizon hr hm hlong hl hvalid he hexpiry hbeyond
  obtain ⟨t, ht, hevq, hrest⟩ := exec_msgAck_of_pending now hr hm hlong hl hvalid
  rw [(expired_iff hexpiry he).2 hbeyond] at hevq
  exact ⟨t, ht, hevq, hrest⟩

/-- Settles O31: the emission of the frame leaves the length and PEND as they are, so the correlator does nothing. -/
theorem shortOrUnmatchedAckOnlyEmitsTheFrame : Obligations.ShortOrUnmatchedAckOnlyEmitsTheFrame := by
  intro s now hr hm hl h
  let v := s.emit (.frame s.fVersion s.fMsgId s.fSeq s.fLength ((List.range s.fLength.toNat).map (Memory.read s.pbuf)))
  calc exec (.msgAck now) s = .next (ackCorrelate now v) := ack_of now hr hm hl
    _ = .next v := by rw [ackCorrelate_of_unmatched (s := v) now h]

/-! ### `SWEEP` (R165) -/

theorem State.setPend_frame (s : State) (p : PendFile) : s.setPend p = { s with pend := (s.setPend p).pend } := rfl

/-- Settles O33: the loop's turn at `k` is the only one that touches entry `k`. -/
theorem sweepRemovesExactlyTheExpiredEntries : Obligations.SweepRemovesExactlyTheExpiredEntries := by
  intro s now hr
  refine ⟨_, exec_sweep_eq_next.2 ⟨hr, rfl⟩, fun k => ?_, State.setPend_frame s _⟩
  have hk : k.toNat < pendEntries := k.isLt
  rw [State.pendAt, State.setPend_pend, sweepAll_read, if_pos hk]
  exact if_congr Bool.and_eq_true_iff rfl rfl

/-- Without a horizon no turn of the loop writes. -/
theorem sweepAll_of_none {c : Config} (h : c.ackExpiry = none) (now : Nat) (p : PendFile) : sweepAll c now p = p := by
  refine pendLoop_keeps (sweepEntry c now) (· = p) pendEntries (fun q k _ hq => ?_) p rfl
  simp only [sweepEntry, expired_of_none h, Bool.and_false, Bool.false_eq_true, if_false, hq]

/-- Settles O34: the loop leaves PEND, the only field that `SWEEP` writes. -/
theorem sweepWithoutHorizonChangesNothing : Obligations.SweepWithoutHorizonChangesNothing := by
  intro s now hr h
  refine exec_sweep_eq_next.2 ⟨hr, ?_⟩
  rw [sweepAll_of_none h]
  rfl

/-! ### What a send records (R160 to R163) -/

/-- `TX_FRAME` of a payload within the limit: the frame goes to `txq`, and the link's answer decides the rest (R180, R183). -/
theorem exec_txFrame_of_fits {s : State} (msgId seq : Byte) {payload : List Byte} (now : Nat) (hr : s.ready = true)
    (hm : s.hasRoom 1 = true) (hl : payload.length ≤ maxLen) :
    exec (.txFrame msgId seq payload now) s =
      if s.link then .next (txRecord seq now (s.txout (encodeFrame msgId seq payload)))
      else .next ((s.txout (encodeFrame msgId seq payload)).raiseDiag .txWriteFail (zext16 seq) (zext16 msgId)) := by
  have hfits : ¬lengthOverflows payload.length = true := mt of_decide_eq_true (Nat.not_lt.2 hl)
  exact (whenReady_of_ready hr _).trans ((whenRoom_of_room hm _).trans (if_neg hfits))

theorem exec_txFrame_of_accepted {s : State} (msgId seq : Byte) {payload : List Byte} (now : Nat) (hr : s.ready = true)
    (hm : s.hasRoom 1 = true) (hl : payload.length ≤ maxLen) (hlink : s.link = true) :
    exec (.txFrame msgId seq payload now) s = .next (txRecord seq now (s.txout (encodeFrame msgId seq payload))) := by
  rw [exec_txFrame_of_fits msgId seq now hr hm hl, if_pos hlink]

theorem txRecord_pendAt_same (seq : Byte) (now : Nat) (s : State) :
    (txRecord seq now s).pendAt seq = ⟨true, now % 2 ^ s.cfg.tsWidth⟩ := pendAt_writePend_same s seq _

theorem txRecord_pendAt_other {seq k : Byte} (hk : k ≠ seq) (now : Nat) (s : State) : (txRecord seq now s).pendAt k = s.pendAt k :=
  pendAt_writePend_other s _ hk

/-- Settles O35: the record does not look at the kind or the payload. -/
theorem acceptedSendAppendsAndRecords : Obligations.AcceptedSendAppendsAndRecords := by
  intro s msgId seq payload now hr hm hl hlink
  exact ⟨_, exec_txFrame_of_accepted msgId seq now hr hm hl hlink, rfl, txRecord_pendAt_same seq now _,
    fun k hk => txRecord_pendAt_other hk now _, rfl⟩

/-- Settles O39: the first send leaves `ready`, the channel and the link as they were, so the second completes as it does. -/
theorem secondSendOverwritesTheFirst : Obligations.SecondSendOverwritesTheFirst := by
  intro s m₁ m₂ seq p₁ p₂ n₁ n₂ ⟨hr, hdepth⟩ hlink hl₁ hl₂
  let u := txRecord seq n₁ (s.txout (encodeFrame m₁ seq p₁))
  have hfirst : exec (.txFrame m₁ seq p₁ n₁) s = .next u :=
    exec_txFrame_of_accepted m₁ seq n₁ hr (State.hasRoom_of_unbounded hdepth 1) hl₁ hlink
  have hsecond : exec (.txFrame m₂ seq p₂ n₂) u = .next (txRecord seq n₂ (u.txout (encodeFrame m₂ seq p₂))) :=
    exec_txFrame_of_accepted m₂ seq n₂ hr (State.hasRoom_of_unbounded hdepth 1) hl₂ hlink
  rw [hfirst, andThen_next]
  exact ⟨_, hsecond, txRecord_pendAt_same seq n₂ _,
    fun k hk => (txRecord_pendAt_other hk n₂ _).trans (txRecord_pendAt_other hk n₁ _), rfl, rfl⟩

/-- Settles O37: the frame is on `txq` before the link answers. -/
theorem failedWriteRecordsNothing : Obligations.FailedWriteRecordsNothing := by
  intro s msgId seq payload now hr hm hl hlink
  rw [exec_txFrame_of_fits msgId seq now hr hm hl, if_neg (Bool.eq_false_iff.1 hlink)]
  rfl

end Sys2Proof.Machine
end

section
/-! The frame encoder and `TX_FRAME` (43_tx_framer.md): an oversize payload is rejected (R182), the bytes of an encoded frame (R181), and
the parser that is fed them (R184). -/
namespace Sys2Proof.Machine

/-! ### A payload above the limit (R182) -/

/-- `TX_FRAME` of a payload above the limit does not come to the link (R180, R182). -/
theorem exec_txFrame_of_oversize {s : State} (msgId seq : Byte) {payload : List Byte} (now : Nat) (hr : s.ready = true)
    (hm : s.hasRoom 1 = true) (hl : maxLen < payload.length) :
    exec (.txFrame msgId seq payload now) s =
      .next (s.raiseDiag .txLengthReject (BitVec.ofNat 16 payload.length) (BitVec.ofNat 16 maxLen)) := by
  have hover : lengthOverflows payload.length = true := decide_eq_true hl
  exact (whenReady_of_ready hr _).trans ((whenRoom_of_room hm _).trans (if_pos hover))

/-- Settles O36: a length below 65536 is that of its `u16`, so `plen` is the payload's length itself. -/
theorem oversizePayloadIsRejected : Obligations.OversizePayloadIsRejected := by
  intro s msgId seq payload now hr hm hl hfits
  exact ⟨BitVec.ofNat 16 payload.length, Nat.mod_eq_of_lt hfits, exec_txFrame_of_oversize msgId seq now hr hm hl⟩

/-! ### The bytes of an encoded frame (R181, R82) -/

theorem length_encodeFrame (msgId seq : Byte) (p : List Byte) : (encodeFrame msgId seq p).length = 9 + p.length := by
  simp only [encodeFrame, spanOf, List.length_append, List.length_cons, List.length_nil]
  omega

/-- A length within the limit has its low byte alone (R82). -/
theorem hiByte_of_le_maxLen {v : Half} (hv : v.toNat ≤ maxLen) : hiByte v = 0#8 := by
  have hv' : v.toNat < 256 := Nat.lt_of_le_of_lt hv (by decide)
  exact BitVec.eq_of_toNat_eq ((hiByte_toNat v).trans (Nat.div_eq_of_lt hv'))

theorem loByte_toNat_of_le_maxLen {v : Half} (hv : v.toNat ≤ maxLen) : (loByte v).toNat = v.toNat := by
  have hv' : v.toNat < 256 := Nat.lt_of_le_of_lt hv (by decide)
  exact (loByte_toNat v).trans (Nat.mod_eq_of_lt hv')

/-- Settles O38: of the length bytes only the low one can be other than zero, and the CRC bytes are those of the span's CRC. -/
theorem encodedFrameHasTheWireLayout : Obligations.EncodedFrameHasTheWireLayout := by
  intro msgId seq p hp
  let len := BitVec.ofNat 16 p.length
  let c := crc16 ([protoVersion, loByte len, 0#8, msgId, seq] ++ p)
  have hlen : len.toNat = p.length := (WireFrame.encoded_fits msgId seq hp).1
  have hfits : len.toNat ≤ maxLen := hlen.trans_le hp
  refine ⟨loByte len, loByte c, hiByte c, (loByte_toNat_of_le_maxLen hfits).trans hlen, le16_loByte_hiByte c, ?_,
    length_encodeFrame msgId seq p⟩
  rw [encodeFrame, spanOf, hiByte_of_le_maxLen hfits]
  rfl

/-! ### The round trip (R184) -/

/-- An encoded frame passes validation, so it is dispatched (R105, R107): `EV_FRAME` comes first, and what an Ack may add is the
correlator's report of its own entry (R150). -/
theorem WireFrame.encoded_outcome {msgId seq : Byte} {p : List Byte} {s t : State} (h : (encoded msgId seq p).Outcome s t) :
    ∃ l, t.evq = s.evq ++ .frame protoVersion msgId seq (BitVec.ofNat 16 p.length) p :: l ∧
      (l = [] ∨ (msgId = ackMsgId ∧ ackMinLen ≤ p.length ∧ (s.pendAt seq).valid = true ∧ ∃ r c u w, l = [.rtt seq r c u w])) ∧
      (msgId ≠ ackMsgId → t.pend = s.pend) ∧ ∀ k, k ≠ seq → t.pendAt k = s.pendAt k := by
  cases h with
  | crcMismatch hcrc => exact absurd rfl hcrc
  | versionMismatch _ hversion => exact absurd rfl hversion
  | plain _ _ _ hpend hevq => exact ⟨[], hevq, .inl rfl, fun _ => hpend, fun k _ => congrArg (PendFile.read · k.toNat) hpend⟩
  | ack _ _ hid hother l hevq hrtt => exact ⟨l, hevq, hrtt.imp_right (And.intro hid), fun hne => absurd hid hne, hother⟩

/-- Settles O57: the bytes are those of a frame that fits, so it is consumed whole with one outcome, and the outcome is a dispatch. -/
theorem encodedFrameIsReceivedAsSent : Obligations.EncodedFrameIsReceivedAsSent := by
  intro s msgId seq p xs hs hf hp hxs
  obtain ⟨t, ht, hinit, htxq, hmodel, hout⟩ := rxStream_frame_outcome hs hf (WireFrame.encoded_fits msgId seq hp)
    (hxs.trans (WireFrame.encoded_bytes msgId seq p).symm)
  obtain ⟨l, hevq, hrtt, hplain, hother⟩ := WireFrame.encoded_outcome hout
  exact ⟨t, l, ht, hinit, htxq, hmodel, hevq, hrtt, hplain, hother⟩

end Sys2Proof.Machine
end

section
/-! Errors, events and refusals (60_exceptions.md): the idle step (R220), what the model refuses (R221), the completion of every operation
(R200), and the order of an operation's events (R210). -/
namespace Sys2Proof.Machine

/-! ### The idle step (R220) -/

/-- Settles O10: an empty input is the first case of `step`. -/
theorem stepIsIdleWithoutOperation : Obligations.StepIsIdleWithoutOperation := by
  intro s hin
  simp only [step, hin]

/-! ### What the model refuses (R221) -/

/-- `RX_BYTE` in a state whose code is none of the ten of R22. -/
theorem exec_rxByte_of_invalid {s : State} (hf : 9 < s.fsm.code.toNat) (b : Byte) (now : Nat) :
    exec (.rxByte b now) s = .refused (.invalidFsm s.fsm.code) := by
  cases hs : s.fsm
  case invalidA | invalidB | invalidC | invalidD | invalidE | invalidF => exact exec_rxByte_of_fsm hs b now
  all_goals
    rw [hs] at hf
    exact absurd hf (by decide)

/-- `RX_BYTE` in one of the ten states of R22, before the first `RESET` (R233). -/
theorem exec_rxByte_of_notReady {s : State} (hr : s.ready = false) (hf : s.fsm.code.toNat ≤ 9) (b : Byte) (now : Nat) :
    exec (.rxByte b now) s = .refused .beforeReset := by
  cases hs : s.fsm
  case waitSync0 => exact (exec_rxByte_of_waitSync0 hs b now).trans (whenReady_of_not hr _)
  case waitSync1 => exact (exec_rxByte_of_waitSync1 hs b now).trans (whenReady_of_not hr _)
  case invalidA | invalidB | invalidC | invalidD | invalidE | invalidF =>
    rw [hs] at hf
    exact absurd hf (by decide)
  all_goals exact (exec_rxByte_of_fsm hs b now).trans (whenReady_of_not hr _)

/-- Settles O5: the reserved rows and the rows `RX.invalid_fsm` are refusals as they stand, and of `RX_BYTE` the parser state decides
which refusal it is. -/
theorem modelRefusesThreeThings : Obligations.ModelRefusesThreeThings := by
  refine ⟨fun s b msgId seq payload now hr => ⟨?_, whenReady_of_not hr _, whenReady_of_not hr _⟩, fun s hdr => ?_, fun s b now => ?_⟩
  · obtain hf | hf := Nat.lt_or_ge 9 s.fsm.code.toNat
    · exact ⟨_, exec_rxByte_of_invalid hf b now⟩
    · exact ⟨_, exec_rxByte_of_notReady hr hf b now⟩
  · exact ⟨rfl, rfl, rfl, rfl, rfl, rfl, rfl, rfl, rfl, rfl, rfl, rfl, rfl⟩
  · exact ⟨rfl, rfl, rfl, rfl, rfl, rfl, fun hf => exec_rxByte_of_invalid hf b now⟩

/-! ### Every operation completes (R200) -/

/-- `RX_BYTE` in `ReadLenHi` completes at both ends of the length check (R126). -/
theorem rxByte_readLenHi_total {s : State} (hr : s.ready = true) (hm : s.hasRoom 1 = true) (hf : s.fsm = .readLenHi) (b : Byte)
    (now : Nat) : ∃ t, exec (.rxByte b now) s = .next t := by
  obtain hl | hl := Nat.lt_or_ge maxLen (s.fLength ||| (zext16 b <<< 8)).toNat
  · exact ⟨_, exec_rxByte_of_readLenHi_overflow hr hm hf hl now⟩
  · exact ⟨_, exec_rxByte_of_readLenHi hr hm hf hl now⟩

/-- `RX_BYTE` in `ReadCrcHi` completes whatever the verdict (R131). -/
theorem rxByte_readCrcHi_total {s : State} (hr : s.ready = true) (hm : s.hasRoom 2 = true) (hf : s.fsm = .readCrcHi)
    (hl : s.fLength.toNat ≤ maxLen) (b : Byte) (now : Nat) : ∃ t, exec (.rxByte b now) s = .next t := by
  let v := s.setCrcRx (s.fCrcRx ||| (zext16 b <<< 8))
  have hp : s.payload = some ((List.range s.fLength.toNat).map (Memory.read s.pbuf)) := payload_some hl
  obtain ⟨u, hu⟩ := concludeFrame_total (validate v _) now (s := v) hr hm hl
  exact ⟨_, (exec_rxByte_of_readCrcHi hf b now).trans (exec_rxReadCrcHi_of_conclude hr hm rfl hp hu)⟩

/-- `RX_BYTE` completes in each of the ten parser states. Two of them need room in `evq` (R242), and two an index that exists (R61). -/
theorem rxByte_total {s : State} (hr : s.ready = true) (hlegal : s.fsm.legal = true) (hlenHi : s.fsm = .readLenHi → s.hasRoom 1 = true)
    (hpayload : s.fsm = .readPayload → s.pCount.toNat < pbufEntries)
    (hcrcHi : s.fsm = .readCrcHi → s.hasRoom 2 = true ∧ s.fLength.toNat ≤ maxLen) (b : Byte) (now : Nat) :
    ∃ t, exec (.rxByte b now) s = .next t := by
  cases hf : s.fsm
  case waitSync0 => exact ⟨_, (exec_rxByte_of_waitSync0 hf b now).trans (whenReady_of_ready hr _)⟩
  case waitSync1 => exact ⟨_, (exec_rxByte_of_waitSync1 hf b now).trans (whenReady_of_ready hr _)⟩
  case readLenHi => exact rxByte_readLenHi_total hr (hlenHi hf) hf b now
  case readPayload => exact ⟨_, exec_rxByte_of_readPayload hr hf (hpayload hf) b now⟩
  case readCrcHi =>
    obtain ⟨hm, hl⟩ := hcrcHi hf
    exact rxByte_readCrcHi_total hr hm hf hl b now
  case readVersion | readLenLo | readMsgId | readSeq | readCrcLo =>
    exact ⟨_, (exec_rxByte_of_fsm hf b now).trans (whenReady_of_ready hr _)⟩
  all_goals
    rw [hf] at hlegal
    exact absurd hlegal (by decide)

/-- The parser's registers fit only in one of the ten states (R22). -/
theorem State.parserFits.legal {s : State} (h : s.parserFits) : s.fsm.legal = true := by
  cases hf : s.fsm
  case invalidA | invalidB | invalidC | invalidD | invalidE | invalidF =>
    simp only [State.parserFits, hf] at h
  all_goals rfl

theorem State.parserFits.count_lt {s : State} (h : s.parserFits) (hf : s.fsm = .readPayload) : s.pCount.toNat < pbufEntries := by
  simp only [State.parserFits, hf] at h
  obtain ⟨hl, hc, -⟩ := h
  exact Nat.lt_of_lt_of_le hc hl

theorem State.parserFits.length_le {s : State} (h : s.parserFits) (hf : s.fsm = .readCrcHi) : s.fLength.toNat ≤ maxLen := by
  simp only [State.parserFits, hf] at h
  obtain ⟨hl, -⟩ := h
  exact hl

/-- `TX_FRAME` completes with any payload, whatever the link answers (R180). -/
theorem txFrame_total {s : State} (hr : s.ready = true) (hm : s.hasRoom 1 = true) (msgId seq : Byte) (payload : List Byte) (now : Nat) :
    ∃ t, exec (.txFrame msgId seq payload now) s = .next t := by
  obtain hl | hl := Nat.lt_or_ge maxLen payload.length
  · exact ⟨_, exec_txFrame_of_oversize msgId seq now hr hm hl⟩
  · rw [exec_txFrame_of_fits msgId seq now hr hm hl]
    split_ifs <;> exact ⟨_, rfl⟩

/-- Settles O46: the unbounded channel has the room, and the invariant the bounds, that the four operations need. -/
theorem everyOperationCompletes : Obligations.EveryOperationCompletes := by
  intro s b msgId seq payload now h ⟨hr, hdepth⟩
  have hm := State.hasRoom_of_unbounded hdepth
  have hp := h.parser
  exact ⟨rxByte_total hr hp.legal (fun _ => hm 1) hp.count_lt (fun hf => ⟨hm 2, hp.length_le hf⟩) b now,
    txFrame_total hr (hm 1) msgId seq payload now, ⟨_, exec_sweep_eq_next.2 ⟨hr, rfl⟩⟩, ⟨_, exec_reset_eq_next.2 rfl⟩⟩

/-! ### The events of an operation, and their order (R210) -/

/-- What the byte that completes a frame may append to `evq`: the first item of R210. -/
def completionEvents (l : List Event) : Prop :=
  (∃ v m q n p, l = [.frame v m q n p]) ∨ (∃ v m q n p r c u w, l = [.frame v m q n p, .rtt q r c u w]) ∨
  (∃ x y, l = [.diag .crcMismatch x y]) ∨ (∃ x y, l = [.diag .versionMismatch x y])

/-- The correlator comes after `EV_FRAME`, and reports the seq that the frame carries (R107, R159). -/
theorem ackCorrelate_emit_evq (now : Nat) (s : State) (p : List Byte) :
    ∃ l, (ackCorrelate now (s.emit (.frame s.fVersion s.fMsgId s.fSeq s.fLength p))).evq = s.evq ++ l ∧ completionEvents l := by
  obtain ⟨-, -, -, hsilent | ⟨r, c, u, w, hrtt, -⟩, -⟩ := ack_frame now (s.emit (.frame s.fVersion s.fMsgId s.fSeq s.fLength p))
  · exact ⟨_, hsilent, .inl ⟨_, _, _, _, _, rfl⟩⟩
  · exact ⟨_, hrtt.trans (List.append_assoc _ _ _), .inr (.inl ⟨_, _, _, _, _, _, _, _, _, rfl⟩)⟩

/-- The byte that completes a frame, by its four ends (R131); `parser_reset` leaves `evq` as it is. -/
theorem rxReadCrcHi_evq {s t : State} {b : Byte} {now : Nat} (h : exec (.rxReadCrcHi b now) s = .next t) :
    ∃ l, t.evq = s.evq ++ l ∧ completionEvents l := by
  obtain ⟨p, u, -, -, rfl, ⟨-, rfl⟩ | ⟨-, -, rfl⟩ | ⟨-, -, -, rfl⟩ | ⟨-, -, -, rfl⟩⟩ := crcHi_cases h
  · exact ⟨_, rfl, .inr (.inr (.inl ⟨_, _, rfl⟩))⟩
  · exact ⟨_, rfl, .inr (.inr (.inr ⟨_, _, rfl⟩))⟩
  · exact ⟨_, rfl, .inl ⟨_, _, _, _, _, rfl⟩⟩
  · exact ackCorrelate_emit_evq now (s.setCrcRx (s.fCrcRx ||| (zext16 b <<< 8))) p

/-- A byte that does not complete a frame appends nothing, or reports the overflow of a length (R126). -/
theorem rxByte_evq {s t : State} {b : Byte} {now : Nat} (hf : s.fsm ≠ .readCrcHi) (h : exec (.rxByte b now) s = .next t) :
    t.evq = s.evq ∨ s.fsm = .readLenHi ∧ ∃ x y, t.evq = s.evq ++ [.diag .lengthOverflow x y] := by
  by_cases hlenHi : s.fsm = .readLenHi
  · obtain ⟨-, ⟨-, rfl⟩ | ⟨-, rfl⟩⟩ := rxByte_readLenHi_cases hlenHi h
    · exact .inr ⟨hlenHi, _, _, rfl⟩
    · exact .inl rfl
  · obtain ⟨-, hcases⟩ := rx_cases h
    simp only [hf, hlenHi, false_and, false_or, or_false] at hcases
    rcases hcases with ⟨-, rfl | rfl⟩ | ⟨-, rfl | rfl | ⟨-, -, rfl⟩⟩ | ⟨-, rfl⟩ | ⟨-, rfl⟩ | ⟨-, rfl⟩ | ⟨-, rfl⟩ |
      ⟨-, -, f, -, rfl⟩ | ⟨-, rfl⟩ <;>
      exact .inl rfl

/-- The three ends of `TX_FRAME`: nothing where the link accepts, one diagnostic otherwise (R182, R183). -/
theorem txFrame_evq {msgId seq : Byte} {payload : List Byte} {now : Nat} {s t : State}
    (h : exec (.txFrame msgId seq payload now) s = .next t) :
    ∃ l, t.evq = s.evq ++ l ∧ (l = [] ∨ (∃ x y, l = [.diag .txLengthReject x y]) ∨ ∃ x y, l = [.diag .txWriteFail x y]) := by
  obtain ⟨-, -, ⟨-, rfl⟩ | ⟨-, -, rfl⟩ | ⟨-, -, rfl⟩⟩ := tx_cases h
  · exact ⟨_, rfl, .inr (.inl ⟨_, _, rfl⟩)⟩
  · exact ⟨[], (List.append_nil _).symm, .inl rfl⟩
  · exact ⟨_, rfl, .inr (.inr ⟨_, _, rfl⟩)⟩

/-- Settles O51: the events of each of the four operations; for `RX_BYTE`, of the byte that completes a frame and of the others. -/
theorem eventsOfAnOperationAreInTheFixedOrder : Obligations.EventsOfAnOperationAreInTheFixedOrder := by
  refine ⟨fun s t b now h => ?_, fun s t msgId seq payload now h => txFrame_evq h, fun s t now h => ?_, fun s t h => ?_⟩
  · by_cases hf : s.fsm = .readCrcHi
    · rw [exec_rxByte_of_readCrcHi hf] at h
      obtain ⟨l, hevq, hl⟩ := rxReadCrcHi_evq h
      exact ⟨l, hevq, .inr (.inr ⟨hf, hl⟩)⟩
    · obtain hevq | ⟨hlenHi, x, y, hevq⟩ := rxByte_evq hf h
      · exact ⟨[], hevq.trans (List.append_nil _).symm, .inl ⟨rfl, hf⟩⟩
      · exact ⟨_, hevq, .inr (.inl ⟨hlenHi, x, y, rfl⟩)⟩
  · rw [(exec_sweep_eq_next.1 h).2, State.setPend_evq]
  · rw [exec_reset_eq_next.1 h]
    rfl

end Sys2Proof.Machine
end

section
/-! Reset and the hazards of a host (70_reset_and_hazards.md): the state after `RESET` (R230, R231), the time before the first one (R233),
the stall of a finite event channel (R242), and the sync marker that a stray byte loses (R237). -/
namespace Sys2Proof.Machine

/-! ### `RESET` (R230) -/

/-- Settles O2: the loop over PEND clears every valid bit, and `RESET` sets or keeps each of the other fields. -/
theorem resetOperationGivesInitialState : Obligations.ResetOperationGivesInitialState := by
  intro s
  have hreset : exec .reset s = .next (s.parserReset.setPend (PendFile.clear s.pend)).emptyChannels.setReady := exec_reset_eq_next.2 rfl
  refine ⟨_, hreset, State.parserReset_initial s, fun k => ?_, rfl, rfl, rfl, rfl, rfl, rfl⟩
  rw [reset_pendAt hreset k]

/-! ### The state after `RESET` (R231) -/

/-- The empty store is in canonical form. -/
theorem storeWf_nil {α : Type} [DecidableEq α] (d : α) (size : Nat) : storeWf d size [] :=
  ⟨.nil, fun _ h => absurd h List.not_mem_nil⟩

/-- An unlisted entry is not pending, with timestamp zero, and this is what clearing it leaves (log entry 7). -/
theorem PendFile.clear_nil : PendFile.clear [] = [] :=
  PendFile.ext_read (PendFile.clear_wf (storeWf_nil _ _)) (storeWf_nil _ _) fun k => (PendFile.clear_read [] k).trans (ite_self _)

/-- Settles O1: an empty register file lists no entry, and `RESET` leaves it empty. -/
theorem resetStateHasTheSpecifiedValues : Obligations.ResetStateHasTheSpecifiedValues := by
  refine ⟨⟨rfl, rfl, rfl, rfl, rfl, rfl, rfl⟩, fun _ => rfl, rfl, rfl, rfl, exec_reset_eq_next.2 ?_⟩
  have hpend : PendFile.clear State.reset.pend = [] := PendFile.clear_nil
  rw [hpend]
  rfl

/-- The two address spaces and the event channel of `State.reset` are empty. -/
theorem State.reset_dataInv : State.reset.DataInv where
  pbuf := storeWf_nil _ _
  pend := ⟨storeWf_nil _ _, fun _ h => absurd h List.not_mem_nil⟩
  events _ h := absurd h List.not_mem_nil
  depth d _ := Nat.zero_le d

/-- Settles O43: the parser's registers are as `parser_reset` leaves them, and nothing is stored. -/
theorem resetStateMeetsTheInvariant : Obligations.ResetStateMeetsTheInvariant :=
  State.inv_iff.2 ⟨⟨rfl, rfl, rfl, rfl, rfl, rfl⟩, State.reset_dataInv⟩

/-! ### Before the first `RESET` (R233) -/

/-- Settles O7: the reserved rows and the rows `RX.invalid_fsm` refuse in every state, `RX_BYTE` by R221, and every other row checks that
`RESET` has run. -/
theorem onlyResetRunsBeforeTheFirstReset : Obligations.OnlyResetRunsBeforeTheFirstReset := by
  intro s i hr hi
  cases i
  case reset => exact absurd rfl hi
  case rxByte b now =>
    obtain ⟨hops, -⟩ := modelRefusesThreeThings
    obtain ⟨hrx, -⟩ := hops s b 0#8 0#8 [] now hr
    exact hrx
  case reservedOp0 | reservedOp4 | reservedOp5 | reservedOp6 | reservedOp7 | reservedOp8 | reservedOp9 | reservedOpA | reservedOpB |
      reservedOpC | reservedOpD | reservedOpE | reservedHdr | rxInvalidFsmA | rxInvalidFsmB | rxInvalidFsmC | rxInvalidFsmD |
      rxInvalidFsmE | rxInvalidFsmF =>
    exact ⟨_, rfl⟩
  all_goals exact ⟨_, whenReady_of_not hr _⟩

/-! ### A full event channel (R242) -/

theorem whenRoom_of_full {n : Nat} {s : State} (h : s.hasRoom n = false) (r : Result) : whenRoom n s r = .fault .evqFull := by
  rw [whenRoom, h, if_neg Bool.false_ne_true]

/-- An operation that checks for room after `RESET` has run. -/
theorem whenReady_whenRoom_of_full {n : Nat} {s : State} (hr : s.ready = true) (h : s.hasRoom n = false) (r : Result) :
    whenReady s (whenRoom n s r) = .fault .evqFull :=
  (whenReady_of_ready hr _).trans (whenRoom_of_full h r)

/-- Settles O54: the three that could emit check for room; the others complete by `rxByte_total`, which asks for room only in `ReadLenHi`
and `ReadCrcHi`, and by their equations. -/
theorem fullEventChannelHoldsOperationsOff : Obligations.FullEventChannelHoldsOperationsOff := by
  intro s b msgId seq payload now hr
  refine ⟨fun hm => ?_, fun hm hf => ?_, fun hm hf => ?_, fun hlegal hlenHi hcrcHi hpayload => ?_, ?_, ?_⟩
  · exact whenReady_whenRoom_of_full hr hm _
  · exact (exec_rxByte_of_fsm hf b now).trans (whenReady_whenRoom_of_full hr hm _)
  · exact (exec_rxByte_of_fsm hf b now).trans (whenReady_whenRoom_of_full hr hm _)
  · exact rxByte_total hr hlegal (fun hf => absurd hf hlenHi) hpayload (fun hf => absurd hf hcrcHi) b now
  · exact ⟨_, exec_sweep_eq_next.2 ⟨hr, rfl⟩⟩
  · exact ⟨_, exec_reset_eq_next.2 rfl⟩

/-! ### A stray sync byte (R237) -/

/-- The first sync byte in `WaitSync1` is re-scanned or lost (R123). -/
theorem exec_rxByte_of_waitSync1_sync0 {s : State} (hr : s.ready = true) (hf : s.fsm = .waitSync1) (now : Nat) :
    exec (.rxByte sync0 now) s = .next (s.setFsm (if s.cfg.sync1Replay = true then .waitSync1 else .waitSync0)) := by
  have hne : sync0 ≠ sync1 := by decide
  rw [exec_rxByte_of_waitSync1 hf, whenReady_of_ready hr, if_neg hne, stWaitSync1Other_eq]
  simp only [true_and]

/-- Settles O59: the second byte of the marker finds the parser in `WaitSync1` if the first was re-scanned, and in `WaitSync0` if not. -/
theorem straySyncByteLosesTheMarker : Obligations.StraySyncByteLosesTheMarker := by
  intro s now hr hf
  have hstray := exec_rxByte_of_waitSync1_sync0 hr hf now
  cases hreplay : s.cfg.sync1Replay <;> rw [hreplay] at hstray
  · obtain ⟨hlost, -⟩ := waitSync0HuntsForTheFirstSyncByte (s.setFsm .waitSync0) sync1 now hr rfl
    exact (stream_step hstray _).trans (stream_step hlost [])
  · obtain ⟨hmarker, -⟩ := waitSync1ExpectsTheSecondSyncByte (s.setFsm .waitSync1) sync1 now hr rfl
    exact (stream_step hstray _).trans (stream_step hmarker [])

end Sys2Proof.Machine
end
